-- ==== Sys2Proof/Word.lean ====
section
/-!
DEFINITION. The word types of the block. Every value is unsigned and bits are numbered from 0 at the least significant
bit (00_scope.md R9).
-/

namespace Sys2Proof

/-- One byte: the only transfer width of the bus (20_memory.md R65). -/
abbrev Byte := BitVec 8

/-- A command index, 6 bits wide (00_scope.md R7 `IDX_W`; 30_encoding.md R92). -/
abbrev Index := BitVec 6

/-- A command argument, 32 bits wide (00_scope.md R7 `ARG_W`). -/
abbrev Arg := BitVec 32

end Sys2Proof
end

