-- ==== Sys2Proof/Config.lean ====
section
/-!
DEFINITION. The implementation parameters of 00_scope.md R7. A value the spec gives is a named constant (U15 asks for
names); a parameter the spec leaves OPEN, and every free value, is an opaque constant with no body.
-/

namespace Sys2Proof.Config

/-- `FILLER`: sent when the block has nothing to say, and received as "no response yet" (R7). -/
def filler : Byte := 0xFF

/-- `START_BITS`, OR-ed into byte 0 of a frame (R7, R92). -/
def startBits : Byte := 0x40

/-- `R1_READY`: "card has left idle state" (R7). -/
def r1Ready : Byte := 0x00

/-- `R1_IDLE`: the "idle state entered" code. PRESUMED (the spec's general knowledge, D7, G3; log 16). -/
def r1Idle : Byte := 0x01

/-- `IDX_RESET` (R7, D6; log 17). -/
def idxReset : Index := 0
/-- `IDX_IFCOND` (R7, D6; log 17). -/
def idxIfcond : Index := 8
/-- `IDX_BLKLEN` (R7, D6; log 17). -/
def idxBlklen : Index := 16
/-- `IDX_OPCOND` (R7, D6; log 17). -/
def idxOpcond : Index := 41
/-- `IDX_APP` (R7, D6; log 17). -/
def idxApp : Index := 55
/-- `IDX_OCR` (R7, D6; log 17). -/
def idxOcr : Index := 58

/-- `ARG_RESET` (R7). -/
def argReset : Arg := 0x00000000
/-- `ARG_IFCOND`. PRESUMED (the spec's general knowledge, D9, G4; log 16). -/
def argIfcond : Arg := 0x000001AA
/-- `ARG_OPCOND`. PRESUMED (the spec's general knowledge, D10, G5; log 16). -/
def argOpcond : Arg := 0x40000000
/-- `ARG_APP` (R7, D11; log 17). -/
def argApp : Arg := 0x00000000
/-- `ARG_OCR` (R7, D11; log 17). -/
def argOcr : Arg := 0x00000000
/-- `BLOCK_LEN` = 512, the argument of `CMD16` (R7). -/
def blockLen : Arg := 0x00000200

/-- `CRC_CMD0`. PRESUMED (the spec's general knowledge, D8, G1; log 16). -/
def crcCmd0 : Byte := 0x95
/-- `CRC_CMD8`. PRESUMED (the spec's general knowledge, D8, G2; log 16). -/
def crcCmd8 : Byte := 0x87

/-- `FRAME_LEN` (R7). -/
def frameLen : Nat := 6
/-- `OCR_LEN` (R7). -/
def ocrLen : Nat := 4
/-- `CCS_BIT` (R7). -/
def ccsBit : Nat := 30
/-- `POWERUP_FILLER_BYTES` (R7). -/
def powerupFillerBytes : Nat := 10
/-- `RESET_ATTEMPT_MAX` (R7). -/
def resetAttemptMax : Nat := 200
/-- `OPCOND_ITER_MAX` (R7). -/
def opcondIterMax : Nat := 65535
/-- `POWERUP_DELAY_MS`, as wide as the port `dly_ms` (R7, D14, R229; log 17). -/
def powerupDelayMs : BitVec 16 := 100
/-- `W_BLKLEN`, the one diagnostic code (60_exceptions.md R226). -/
def wBlklen : BitVec 3 := 1

/-- `CRC_FILLER`: OPEN (R7, D12, U7). No value is chosen (log 4). -/
opaque crcFiller : Byte

/-- `POLL_BOUND[idx]`: OPEN, one natural number per command index (R7, D13, U8). No value is chosen (log 4). -/
opaque pollBound : Index → Nat

/-- Whether the optional Diagnostic Sink is there (60_exceptions.md R226, U10). No value is chosen (log 19). -/
opaque diagSink : Bool

/-- The byte the card returns in the `n`-th exchange when the environment has listed none: any value (20_memory.md R77,
U2, U12). A free value: nothing constrains it (log 3). -/
opaque cardByte : Nat → Byte

end Sys2Proof.Config
end

