-- ==== Sys2Proof/Syntax.lean ====
section
/-!
DEFINITION. The operations of the block as data: one constructor per row of spec/opcode_table.json.
-/

namespace Sys2Proof

/-- The rows of spec/opcode_table.json: six card commands and their pair (30_encoding.md R94, R104), the four operations
(R99), the four classes of a byte received during a poll (R95) and the OCR reply (R96). A `crc` operand is the checksum
byte `c` of the row's pattern: the sequencer supplies `CRC_FILLER` there (log 13). -/
inductive Instr where
  /-- `CMD0` (Reset). -/
  | cmd0
  /-- `CMD8` (Interface condition). -/
  | cmd8
  /-- `CMD55` (application-command prefix). -/
  | cmd55 (crc : Byte)
  /-- `CMD41` (operating-condition command). -/
  | cmd41 (crc : Byte)
  /-- `CMD58` (OCR read). -/
  | cmd58 (crc : Byte)
  /-- `CMD16` (Block length fix-up). -/
  | cmd16 (crc : Byte)
  /-- `ACMD41`, the pair `CMD55` then `CMD41`. -/
  | acmd41 (crc : Byte)
  /-- `buildFrame(index, argument, checksum)`. -/
  | buildFrame (index : Index) (argument : Arg) (checksum : Byte)
  /-- `sendCommand(index, argument, checksum)`. -/
  | sendCommand (index : Index) (argument : Arg) (checksum : Byte)
  /-- `pollResponse(maxAttempts)`. -/
  | pollResponse (maxAttempts : Nat)
  /-- `initializeCard()`. -/
  | initializeCard
  /-- `RESP.FILLER`: the byte `FILLER`. -/
  | respFiller
  /-- `RESP.READY`: the byte `R1_READY`. -/
  | respReady
  /-- `RESP.IDLE`: the byte `R1_IDLE`. -/
  | respIdle
  /-- `RESP.OTHER`: any other byte `r`. -/
  | respOther (r : Byte)
  /-- `OCR`: the four bytes of the OCR reply, first byte most significant. -/
  | ocr (word : BitVec 32)
  deriving DecidableEq, Repr

end Sys2Proof
end

