-- ==== Sys2Proof/WellFormed.lean ====
section
/-!
DEFINITION. Which operations are written the way the opcode table writes them: the table's generic rows are fallback
rows, "to be matched after" the specific ones, so an operand that spells a specific row is not a well-formed generic.
An operation that is not well-formed still has its meaning; it is only another spelling (log 12).
-/

namespace Sys2Proof

/-- The frame fields that spell one of the six command rows of 30_encoding.md R94. -/
def isCommandFrame (index : Index) (argument : Arg) (checksum : Byte) : Bool :=
  (index == Config.idxReset && argument == Config.argReset && checksum == Config.crcCmd0)
    || (index == Config.idxIfcond && argument == Config.argIfcond && checksum == Config.crcCmd8)
    || (index == Config.idxApp && argument == Config.argApp)
    || (index == Config.idxOpcond && argument == Config.argOpcond)
    || (index == Config.idxOcr && argument == Config.argOcr)
    || (index == Config.idxBlklen && argument == Config.blockLen)

/-- The received bytes that have a row of their own (30_encoding.md R95). -/
def isNamedResponse (r : Byte) : Bool :=
  r == Config.filler || r == Config.r1Ready || r == Config.r1Idle

/-- `buildFrame` is the fallback after the six command rows, `RESP.OTHER` the fallback after the three named bytes;
every other operand combination of every row is well-formed. -/
def Instr.wellFormed : Instr → Bool
  | .cmd0 => true
  | .cmd8 => true
  | .cmd55 _ => true
  | .cmd41 _ => true
  | .cmd58 _ => true
  | .cmd16 _ => true
  | .acmd41 _ => true
  | .buildFrame index argument checksum => !isCommandFrame index argument checksum
  | .sendCommand _ _ _ => true
  | .pollResponse _ => true
  | .initializeCard => true
  | .respFiller => true
  | .respReady => true
  | .respIdle => true
  | .respOther r => !isNamedResponse r
  | .ocr _ => true

end Sys2Proof
end

