-- ==== Sys2Proof/Decode.lean ====
section
/-!
DEFINITION. From the bytes on a port of the block to the operation they stand for, and back. The block itself decodes no
frames (30_encoding.md R98); this is the opcode table read as a decoder. Rows of different formats share bit patterns
(`0xFF` is both the byte a poll sends and a filler received), so the port is part of what is decoded (log 12). Multi-byte
values are most significant byte first (20_memory.md R62, R63).
-/

namespace Sys2Proof

/-- Where bytes are seen: the formats of spec/opcode_table.json. -/
inductive Port where
  /-- FRAME48: one command frame, sent. -/
  | frame
  /-- PSEUDO: two command frames, sent (`ACMD41`). -/
  | framePair
  /-- TRANSACTION: the settle byte and the frame of one transaction, sent. -/
  | transaction
  /-- FILLER8: the byte a poll sends; the poll's operand `maxAttempts` is not on the wire, its caller supplies it
  (41_poller.md R130; log 27). -/
  | poll (maxAttempts : Nat)
  /-- HOST_START: the host's one-bit input. -/
  | hostStart
  /-- RESP8: a byte received during a poll. -/
  | response
  /-- OCR32: the four bytes received at `S5_OCRBYTES`. -/
  | ocrReply
  deriving DecidableEq, Repr

/-- Bytes seen at a port, first byte first (for `hostStart` the one bit, as a number). -/
structure Packet where
  port : Port
  bytes : List Byte
  deriving DecidableEq, Repr

/-- Why bytes are no operation. -/
inductive DecodeError where
  /-- Not as many bytes as the format has. -/
  | wrongLength
  /-- Bits 7:6 of a frame's byte 0 are not `01` (30_encoding.md R90). -/
  | badStartBits
  /-- A transaction whose first byte is not the settle byte `0xFF` (42_transaction.md R142). -/
  | badSettleByte
  /-- A poll that sends a byte other than `0xFF` (41_poller.md R130). -/
  | badPollByte
  /-- `start` is not 1 (60_exceptions.md R221). -/
  | startNotRaised
  /-- Two frames that are not `CMD55` then `CMD41` (30_encoding.md R104). -/
  | notAcmd41
  /-- The two frames of `ACMD41` with different checksums: the table's pattern has one `c` in both. -/
  | checksumsDiffer
  deriving DecidableEq, Repr

/-! ## Encoding -/

/-- The six bytes of a command frame (30_encoding.md R90, R92; 40_framer.md R120). -/
def frameBytes (index : Index) (argument : Arg) (checksum : Byte) : Vector Byte 6 :=
  #v[Config.startBits ||| index.setWidth 8, argument.extractLsb' 24 8, argument.extractLsb' 16 8,
    argument.extractLsb' 8 8, argument.extractLsb' 0 8, checksum]

/-- The four bytes of an OCR reply, most significant first (20_memory.md R63). -/
def ocrBytes (word : BitVec 32) : List Byte :=
  [word.extractLsb' 24 8, word.extractLsb' 16 8, word.extractLsb' 8 8, word.extractLsb' 0 8]

/-- Four bytes as one 32-bit value, the first most significant (20_memory.md R62, R63). -/
def ofBytes32 (b0 b1 b2 b3 : Byte) : BitVec 32 := b0 ++ b1 ++ b2 ++ b3

/-- The words of an operation, by the pattern of its row. -/
def encode : Instr → Packet
  | .cmd0 => ⟨.frame, (frameBytes Config.idxReset Config.argReset Config.crcCmd0).toList⟩
  | .cmd8 => ⟨.frame, (frameBytes Config.idxIfcond Config.argIfcond Config.crcCmd8).toList⟩
  | .cmd55 crc => ⟨.frame, (frameBytes Config.idxApp Config.argApp crc).toList⟩
  | .cmd41 crc => ⟨.frame, (frameBytes Config.idxOpcond Config.argOpcond crc).toList⟩
  | .cmd58 crc => ⟨.frame, (frameBytes Config.idxOcr Config.argOcr crc).toList⟩
  | .cmd16 crc => ⟨.frame, (frameBytes Config.idxBlklen Config.blockLen crc).toList⟩
  | .acmd41 crc => ⟨.framePair, (frameBytes Config.idxApp Config.argApp crc).toList
      ++ (frameBytes Config.idxOpcond Config.argOpcond crc).toList⟩
  | .buildFrame index argument checksum => ⟨.frame, (frameBytes index argument checksum).toList⟩
  | .sendCommand index argument checksum =>
      ⟨.transaction, Config.filler :: (frameBytes index argument checksum).toList⟩
  | .pollResponse maxAttempts => ⟨.poll maxAttempts, [Config.filler]⟩
  | .initializeCard => ⟨.hostStart, [1]⟩
  | .respFiller => ⟨.response, [Config.filler]⟩
  | .respReady => ⟨.response, [Config.r1Ready]⟩
  | .respIdle => ⟨.response, [Config.r1Idle]⟩
  | .respOther r => ⟨.response, [r]⟩
  | .ocr word => ⟨.ocrReply, ocrBytes word⟩

/-! ## Decoding -/

/-- The fields of a frame whose start pattern is right (40_framer.md R125). -/
def frameFields (b0 b1 b2 b3 b4 b5 : Byte) : Except DecodeError (Index × Arg × Byte) :=
  if b0.extractLsb' 6 2 = 1 then .ok (b0.setWidth 6, ofBytes32 b1 b2 b3 b4, b5) else .error .badStartBits

/-- The row of a frame: the six command rows first, then the generic row (30_encoding.md R94). -/
def frameInstr (index : Index) (argument : Arg) (checksum : Byte) : Instr :=
  if index = Config.idxReset ∧ argument = Config.argReset ∧ checksum = Config.crcCmd0 then .cmd0
  else if index = Config.idxIfcond ∧ argument = Config.argIfcond ∧ checksum = Config.crcCmd8 then .cmd8
  else if index = Config.idxApp ∧ argument = Config.argApp then .cmd55 checksum
  else if index = Config.idxOpcond ∧ argument = Config.argOpcond then .cmd41 checksum
  else if index = Config.idxOcr ∧ argument = Config.argOcr then .cmd58 checksum
  else if index = Config.idxBlklen ∧ argument = Config.blockLen then .cmd16 checksum
  else .buildFrame index argument checksum

/-- FRAME48. -/
def decodeFrame : List Byte → Except DecodeError Instr
  | [b0, b1, b2, b3, b4, b5] =>
    (frameFields b0 b1 b2 b3 b4 b5).map fun (index, argument, checksum) => frameInstr index argument checksum
  | _ => .error .wrongLength

/-- PSEUDO: `CMD55` then `CMD41`, one checksum in both (30_encoding.md R104). -/
def decodeFramePair (bytes : List Byte) : Except DecodeError Instr :=
  if bytes.length = 12 then
    match decodeFrame (bytes.take 6), decodeFrame (bytes.drop 6) with
    | .ok (.cmd55 c), .ok (.cmd41 d) => if c = d then .ok (.acmd41 c) else .error .checksumsDiffer
    | .error e, _ => .error e
    | _, .error e => .error e
    | _, _ => .error .notAcmd41
  else .error .wrongLength

/-- TRANSACTION: the settle byte, then a frame (30_encoding.md R100). -/
def decodeTransaction : List Byte → Except DecodeError Instr
  | [settle, b0, b1, b2, b3, b4, b5] =>
    if settle = Config.filler then
      (frameFields b0 b1 b2 b3 b4 b5).map fun (index, argument, checksum) => .sendCommand index argument checksum
    else .error .badSettleByte
  | _ => .error .wrongLength

/-- RESP8: the class of a received byte (30_encoding.md R95). -/
def responseInstr (b : Byte) : Instr :=
  if b = Config.filler then .respFiller
  else if b = Config.r1Ready then .respReady
  else if b = Config.r1Idle then .respIdle
  else .respOther b

/-- The operation that bytes at a port stand for, or the name of what is wrong with them. Total on all bytes. -/
def decode (p : Packet) : Except DecodeError Instr :=
  match p.port with
  | .frame => decodeFrame p.bytes
  | .framePair => decodeFramePair p.bytes
  | .transaction => decodeTransaction p.bytes
  | .poll maxAttempts =>
    match p.bytes with
    | [b] => if b = Config.filler then .ok (.pollResponse maxAttempts) else .error .badPollByte
    | _ => .error .wrongLength
  | .hostStart =>
    match p.bytes with
    | [b] => if b = 1 then .ok .initializeCard else .error .startNotRaised
    | _ => .error .wrongLength
  | .response =>
    match p.bytes with
    | [b] => .ok (responseInstr b)
    | _ => .error .wrongLength
  | .ocrReply =>
    match p.bytes with
    | [b0, b1, b2, b3] => .ok (.ocr (ofBytes32 b0 b1 b2 b3))
    | _ => .error .wrongLength

/-! ## The opcode table's numbers -/

/-- The `n` low bytes of a number, the most significant first. -/
def bytesBE : Nat → Nat → List Byte
  | 0, _ => []
  | n + 1, w => BitVec.ofNat 8 (w >>> (8 * n)) :: bytesBE n w

/-- Where a row of spec/opcode_table.json with this many bits is seen. Eight bits are read as a received byte: the row
`pollResponse` has the same eight bits as `RESP.FILLER` and the number alone cannot tell them apart (log 12). -/
def tablePort (nbits : Nat) : Option Port :=
  match nbits with
  | 1 => some .hostStart
  | 8 => some .response
  | 32 => some .ocrReply
  | 48 => some .frame
  | 56 => some .transaction
  | 96 => some .framePair
  | _ => none

/-- The packet of a word of the opcode table, numbered as the table numbers it: bit 0 is the last bit of the pattern. A
width no row has gives an empty frame, which decodes to nothing. -/
def tablePacket (nbits w : Nat) : Packet :=
  match tablePort nbits with
  | some port => ⟨port, bytesBE ((nbits + 7) / 8) w⟩
  | none => ⟨.frame, []⟩

/-- The operation read from a word of the opcode table, none where the decoder refuses it. -/
def decodeTableWord (nbits w : Nat) : Option Instr :=
  (decode (tablePacket nbits w)).toOption

end Sys2Proof
end

