-- ==== Sys2Proof/Machine/State.lean ====
section
/-!
DEFINITION. The state of the block as plain data: every register of 10_state.md, then the parameters of the step
relation that R20 says are not state of the block (held here because a step has no other argument), then the model's own
record of events and its operation slot. And the state after reset (R43).
-/

namespace Sys2Proof.Machine

/-- The program points of `initializeCard` (10_state.md R30). Codes 14 and 15 cannot be written (D31, U1). -/
inductive Seq where
  | idle | s1Speed | s1Delay | s1Clocks | s2Reset | s3Ifcond | s4App | s4Opcond | s5Ocrcmd | s5Ocrbytes | s6Classify
  | s7Blklen | s8Speed | s8Desel
  deriving DecidableEq, Repr

/-- The phases of a transaction (10_state.md R31). Code 7 cannot be written (D31, U1). -/
inductive Phase where
  | none | assert | settle | frame | poll | deassert | trail
  deriving DecidableEq, Repr

/-- The Card State (10_state.md R34); the reason of `failed` is in `errKind`. -/
inductive CardState where
  | uninitialized | reset | versionChecked | voltageNegotiated | capacityKnown | blockLengthSet | ready | failed
  deriving DecidableEq, Repr

/-- The reason of `failed`, or none (10_state.md R35). Codes 5 to 7 cannot be written (D31, U1). -/
inductive ErrKind where
  | none | resetFailed | unsupportedCard | voltageNegotiationTimeout | ocrReadError
  deriving DecidableEq, Repr

/-- The Card Type (10_state.md R36). -/
inductive CardType where
  | sdv2 | sdhc
  deriving DecidableEq, Repr

/-- The Bus Speed (10_state.md R37). -/
inductive BusSpeed where
  | init | operational
  deriving DecidableEq, Repr

/-- The result of a poll: a flag and a byte (10_state.md R22, D5). -/
structure Resp where
  /-- `resp.none` -/
  isNone : Bool
  /-- `resp.byte` -/
  byte : Byte
  deriving DecidableEq, Repr

/-- One completed call of a capability (00_scope.md R10, R11). -/
inductive Event where
  /-- `X(out, in)`: one exchange. -/
  | xchg (out received : Byte)
  /-- `SA` -/
  | selAssert
  /-- `SD` -/
  | selDeassert
  /-- `SI` -/
  | speedInit
  /-- `SO` -/
  | speedOper
  /-- `DL(n)` -/
  | delay (ms : BitVec 16)
  /-- `LG(code)`, optional and outside the protocol (60_exceptions.md R226). -/
  | diag (code : BitVec 3)
  deriving DecidableEq, Repr

/-- The parameters the spec leaves OPEN (00_scope.md R7). No step writes them (log 4). -/
structure Params where
  /-- `CRC_FILLER` -/
  crcFiller : Byte
  /-- `POLL_BOUND[idx]` -/
  pollBound : Vector Nat 64
  /-- whether the Diagnostic Sink is there -/
  diagSink : Bool
  deriving DecidableEq, Repr

structure State where
  /-- the command frame (R21) -/
  frame : Vector Byte 6
  /-- the result of the last poll (R22) -/
  resp : Resp
  /-- the OCR Register (R23) -/
  ocr : BitVec 32
  /-- `CMD0` transactions completed in step 2 (R24) -/
  attempt : BitVec 8
  /-- iterations completed in step 4 (R25) -/
  iter : BitVec 16
  /-- exchanges of the poll in progress (R26, D23) -/
  polls : Nat
  /-- `maxAttempts` of the poll in progress (R26, D23) -/
  bound : Nat
  /-- byte counter of the three byte loops (R27) -/
  bidx : BitVec 4
  /-- the program point (R30) -/
  seq : Seq
  /-- the phase of the transaction (R31) -/
  tph : Phase
  /-- the Card State (R34) -/
  cardState : CardState
  /-- the reason of `failed` (R35) -/
  errKind : ErrKind
  /-- the Card Type (R36) -/
  cardType : CardType
  /-- whether `cardType` means anything (R36) -/
  cardTypeValid : Bool
  /-- the last speed call made (R37) -/
  busSpeed : BusSpeed
  /-- the select line as last commanded, true = asserted (R38) -/
  sel : Bool
  /-- a run is in progress (R39) -/
  busy : Bool
  /-- a run has ended (R39) -/
  done : Bool
  /-- the run ended `Ok` (R39) -/
  ok : Bool
  /-- the sticky warning of step 7 (R40) -/
  warnBlklen : Bool
  /-- input: the host's `start` level (R220; log 6) -/
  start : Bool
  /-- input: the reset level `rst` (R240; log 6) -/
  rst : Bool
  /-- input: the collaborators complete the call the block raises (R229, R249; log 5) -/
  ack : Bool
  /-- input: the bytes the card returns next, the next one first (R77; log 3) -/
  rx : List Byte
  /-- the model's count of exchanges, which names the free byte when `rx` is empty (log 3) -/
  rxCount : Nat
  /-- the OPEN parameters (R7; log 4) -/
  params : Params
  /-- the model's record of the events emitted, the newest first (R11; log 7) -/
  events : List Event
  /-- the model's slot for one operation placed from outside (log 1) -/
  slot : Option Packet
  deriving DecidableEq, Repr

/-- Why the machine stops with a fault: never. The block has no trap and no fault (60_exceptions.md R204, R213); a fatal
`InitError` is a next state (R210). -/
inductive Fault where
  deriving DecidableEq, Repr

/-- Why a step has no meaning. -/
inductive Refusal where
  /-- Raised by an arm of `exec` for an operation not modelled yet. Safe: nothing can be proved of it. -/
  | notModelled (mnemonic : String)
  /-- Raised by `step` when the words placed in the slot are no operation of the opcode table. Safe. -/
  | undecodable (reason : DecodeError)
  /-- Raised by a transaction invoked while another is in progress (`tph` not `T_NONE`): "not interruptible by another
  transaction" (42_transaction.md R141, R149; 20_memory.md R72; U5 says `refuse`). Safe. -/
  | transactionInProgress
  deriving DecidableEq, Repr

/-- The machine right after reset (10_state.md R43), with nothing placed and nothing presented by the environment but
collaborators that answer (logs 1, 3 to 7, 19). -/
def State.reset : State where
  frame := Vector.replicate 6 0
  resp := ⟨true, 0xFF⟩
  ocr := 0
  attempt := 0
  iter := 0
  polls := 0
  bound := 0
  bidx := 0
  seq := .idle
  tph := .none
  cardState := .uninitialized
  errKind := .none
  cardType := .sdv2
  cardTypeValid := false
  busSpeed := .init
  sel := false
  busy := false
  done := false
  ok := false
  warnBlklen := false
  start := false
  rst := false
  ack := true
  rx := []
  rxCount := 0
  params := ⟨Config.crcFiller, Vector.ofFn fun i => Config.pollBound (BitVec.ofFin i), Config.diagSink⟩
  events := []
  slot := none

end Sys2Proof.Machine
end

