-- ==== Sys2Proof/Machine/Ops.lean ====
section
/-!
DEFINITION. The named operations on the state: the pseudocode primitives of 00_scope.md R10, the register writes, and
the shared operations that start a run, end it, fail it and reset the block. Every meaning is written over these.
-/

namespace Sys2Proof.Machine

/-! ## Events and capability calls (R10, R11) -/

/-- Records a completed call. -/
def State.emit (e : Event) (s : State) : State :=
  { s with events := e :: s.events }

/-- The byte the card returns in the next exchange: what the environment has listed, else any value (R77, U2). -/
def State.nextByte (s : State) : Byte :=
  match s.rx with
  | b :: _ => b
  | [] => Config.cardByte s.rxCount

/-- `Xchg(out)`: one exchange (20_memory.md R60, R66). The byte received is `nextByte` of the state before. -/
def State.xchg (out : Byte) (s : State) : State :=
  { s with events := .xchg out s.nextByte :: s.events, rx := s.rx.tail, rxCount := s.rxCount + 1 }

/-- The environment lists bytes the card returns before those listed so far. -/
def State.offer (bytes : List Byte) (s : State) : State :=
  { s with rx := bytes ++ s.rx }

/-- `SelAssert()` (42_transaction.md R151). -/
def State.selAssert (s : State) : State :=
  { s with events := .selAssert :: s.events, sel := true }

/-- `SelDeassert()` (42_transaction.md R151). -/
def State.selDeassert (s : State) : State :=
  { s with events := .selDeassert :: s.events, sel := false }

/-- `SpeedInit()` (42_transaction.md R150). -/
def State.speedInit (s : State) : State :=
  { s with events := .speedInit :: s.events, busSpeed := .init }

/-- `SpeedOper()` (42_transaction.md R150). -/
def State.speedOper (s : State) : State :=
  { s with events := .speedOper :: s.events, busSpeed := .operational }

/-- `Delay(n)` (42_transaction.md R152). -/
def State.delay (ms : BitVec 16) (s : State) : State :=
  s.emit (.delay ms)

/-- `Diag(code)`: an event where the sink is there, nothing where it is not (60_exceptions.md R226, U10). -/
def State.diag (code : BitVec 3) (s : State) : State :=
  if s.params.diagSink then s.emit (.diag code) else s

/-! ## Register writes -/

/-- `seq <- point`. -/
def State.goto (p : Seq) (s : State) : State := { s with seq := p }

/-- `tph <- phase`. -/
def State.enterPhase (p : Phase) (s : State) : State := { s with tph := p }

/-- `bidx <- n`. -/
def State.setBidx (n : BitVec 4) (s : State) : State := { s with bidx := n }

/-- `frame <- f`, written whole (10_state.md R21). -/
def State.writeFrame (f : Vector Byte 6) (s : State) : State := { s with frame := f }

/-- The start of a poll: `bound <- maxAttempts; polls <- 0` (41_poller.md R130). -/
def State.startPoll (maxAttempts : Nat) (s : State) : State := { s with bound := maxAttempts, polls := 0 }

/-- `resp <- r`. -/
def State.setResp (r : Resp) (s : State) : State := { s with resp := r }

/-- `attempt <- n`. -/
def State.setAttempt (n : BitVec 8) (s : State) : State := { s with attempt := n }

/-- `iter <- n`. -/
def State.setIter (n : BitVec 16) (s : State) : State := { s with iter := n }

/-- `card_state <- c`. -/
def State.setCardState (c : CardState) (s : State) : State := { s with cardState := c }

/-- `card_type <- t; card_type_valid <- 1` (43_init_sequence.md R180). -/
def State.setCardType (t : CardType) (s : State) : State := { s with cardType := t, cardTypeValid := true }

/-- `warn_blklen <- 1` (10_state.md R40). -/
def State.warn (s : State) : State := { s with warnBlklen := true }

/-- The slot is emptied as its operation is taken up (log 1). -/
def State.takeSlot (s : State) : State := { s with slot := none }

/-! ## One exchange of each loop that counts -/

/-- A poll exchange: `Xchg(0xFF); polls <- polls + 1` (41_poller.md R130). -/
def State.pollXchg (s : State) : State :=
  { s.xchg Config.filler with polls := s.polls + 1 }

/-- An exchange of a byte loop made to send: `Xchg(out); bidx <- bidx + 1`, the received byte discarded (R67). -/
def State.sendXchg (out : Byte) (s : State) : State :=
  { s.xchg out with bidx := s.bidx + 1 }

/-- An OCR exchange: the byte received is shifted into `ocr` from the right (43_init_sequence.md R178). -/
def State.ocrXchg (s : State) : State :=
  { s.xchg Config.filler with ocr := (s.ocr <<< 8) ||| s.nextByte.setWidth 32, bidx := s.bidx + 1 }

/-! ## Start, end, failure, reset -/

/-- A start is accepted: the per-run status is initialised again (10_state.md R44). -/
def State.acceptStart (s : State) : State :=
  { s with
    busy := true, done := false, ok := false, errKind := .none, cardState := .uninitialized,
    cardTypeValid := false, warnBlklen := false, seq := .s1Speed, tph := .none }

/-- `raise InitError(kind)`, the block's only exception (60_exceptions.md R210). Nothing is saved and there is no
handler: control returns to the host. -/
def State.raiseInitError (kind : ErrKind) (s : State) : State :=
  { s with cardState := .failed, errKind := kind, ok := false, done := true, busy := false, seq := .idle }

/-- What stands beside it in place of a return: nothing is restored (60_exceptions.md R212), a run that succeeds ends so
(43_init_sequence.md R186). -/
def State.finishOk (s : State) : State :=
  { s with cardState := .ready, ok := true, done := true, busy := false, seq := .idle }

/-- Reset: every register takes its reset value and no event is emitted (70_reset_and_hazards.md R240, R242). The
inputs, the parameters and the record of events are not registers of the block and stay (log 20). -/
def State.applyReset (s : State) : State :=
  { State.reset with
    start := s.start, rst := s.rst, ack := s.ack, rx := s.rx, rxCount := s.rxCount,
    params := s.params, events := s.events }

/-! ## Control -/

/-- Does `f` if the block is at program point `p`. -/
def atPoint (p : Seq) (f : State → State) (s : State) : State :=
  if s.seq = p then f s else s

/-- Repeats `body` while the block is at program point `p`, at most `n` times. -/
def whileAt (p : Seq) (body : State → State) : Nat → State → State
  | 0, s => s
  | n + 1, s => if s.seq = p then whileAt p body n (body s) else s

end Sys2Proof.Machine
end

