-- ==== Sys2Proof/Machine/Operands.lean ====
section
/-!
DEFINITION. The operands: what the sequencer supplies to each command (30_encoding.md R94), the poll bound of a command
(42_transaction.md R144) and the frame byte the byte counter selects (R143).
-/

namespace Sys2Proof.Machine

/-- The operands of one transaction (42_transaction.md R140). -/
structure Command where
  index : Index
  argument : Arg
  checksum : Byte
  deriving DecidableEq, Repr

/-- `CMD0` (R165). -/
def cmd0Operands : Command := ⟨Config.idxReset, Config.argReset, Config.crcCmd0⟩
/-- `CMD8` (R168). -/
def cmd8Operands : Command := ⟨Config.idxIfcond, Config.argIfcond, Config.crcCmd8⟩
/-- `CMD55` (R171). -/
def cmd55Operands (crc : Byte) : Command := ⟨Config.idxApp, Config.argApp, crc⟩
/-- `CMD41` (R172). -/
def cmd41Operands (crc : Byte) : Command := ⟨Config.idxOpcond, Config.argOpcond, crc⟩
/-- `CMD58` (R176). -/
def cmd58Operands (crc : Byte) : Command := ⟨Config.idxOcr, Config.argOcr, crc⟩
/-- `CMD16` (R182). -/
def cmd16Operands (crc : Byte) : Command := ⟨Config.idxBlklen, Config.blockLen, crc⟩

/-- The frame of a command (40_framer.md R120). -/
def Command.frame (c : Command) : Vector Byte 6 := frameBytes c.index c.argument c.checksum

/-- The command the sequencer issues at a program point, with `CRC_FILLER` as the fixed filler checksum; none at the
points that issue none (10_state.md R30, R31; 30_encoding.md R93, R94). -/
def pointCommand (p : Params) : Seq → Option Command
  | .s2Reset => some cmd0Operands
  | .s3Ifcond => some cmd8Operands
  | .s4App => some (cmd55Operands p.crcFiller)
  | .s4Opcond => some (cmd41Operands p.crcFiller)
  | .s5Ocrcmd => some (cmd58Operands p.crcFiller)
  | .s7Blklen => some (cmd16Operands p.crcFiller)
  | .idle => none
  | .s1Speed => none
  | .s1Delay => none
  | .s1Clocks => none
  | .s5Ocrbytes => none
  | .s6Classify => none
  | .s8Speed => none
  | .s8Desel => none

/-- `POLL_BOUND[index]` (42_transaction.md R144): it depends on the command index only. -/
def State.pollBoundOf (s : State) (index : Index) : Nat := s.params.pollBound.get index.toFin

/-- `frame[bidx]`, none when the byte loop is over (42_transaction.md R143). -/
def State.frameByte (s : State) : Option Byte := s.frame.toList[s.bidx.toNat]?

end Sys2Proof.Machine
end

