-- ==== Sys2Proof/Machine/Flags.lean ====
section
/-!
DEFINITION. The tests and the flag values: comparison of a response with a code, the class of the capacity bit, and the
flags the host derives (10_state.md R22, R33, R36, R39). There are no condition codes (R33).
-/

namespace Sys2Proof.Machine

/-- NoResponse (41_poller.md R131): `none = 1, byte = 0xFF`. -/
def Resp.noResponse : Resp := ⟨true, Config.filler⟩

/-- A Response Byte: `none = 0`. -/
def Resp.reply (b : Byte) : Resp := ⟨false, b⟩

/-- `resp == c`: false whenever there is no response (10_state.md R22). -/
def Resp.is (r : Resp) (c : Byte) : Bool := !r.isNone && r.byte == c

/-- The card type of an OCR value, from its CCS bit alone (43_init_sequence.md R180, 30_encoding.md R96). -/
def cardTypeOf (ocr : BitVec 32) : CardType :=
  if ocr.getLsbD Config.ccsBit then .sdhc else .sdv2

/-- The program points at which a transaction runs (10_state.md R31). -/
def Seq.isTransaction : Seq → Bool
  | .s2Reset => true
  | .s3Ifcond => true
  | .s4App => true
  | .s4Opcond => true
  | .s5Ocrcmd => true
  | .s7Blklen => true
  | .idle => false
  | .s1Speed => false
  | .s1Delay => false
  | .s1Clocks => false
  | .s5Ocrbytes => false
  | .s6Classify => false
  | .s8Speed => false
  | .s8Desel => false

/-- The phases in which the select line is asserted (10_state.md R45 (b)). -/
def Phase.selected : Phase → Bool
  | .settle => true
  | .frame => true
  | .poll => true
  | .deassert => true
  | .none => false
  | .assert => false
  | .trail => false

end Sys2Proof.Machine
end

