-- ==== Sys2Proof/Machine/Poller.lean ====
section
/-!
DEFINITION. The Response Poller: `pollResponse` (41_poller.md).
-/

namespace Sys2Proof.Machine

/-- The poll loop with `n` exchanges still allowed: it ends at the first byte that is not the filler, or with NoResponse
when none is left (41_poller.md R130, R131, R134). -/
def pollLoop : Nat → State → State
  | 0, s => s.setResp .noResponse
  | n + 1, s =>
    if s.nextByte = Config.filler then pollLoop n s.pollXchg else s.pollXchg.setResp (.reply s.nextByte)

/-- A whole poll. -/
def poll (maxAttempts : Nat) (s : State) : State :=
  pollLoop maxAttempts (s.startPoll maxAttempts)

/-- `pollResponse(maxAttempts)`: defined for any state (41_poller.md R130, R136). That a transaction in flight, in which it is
placed, then goes on with the counters and the response it leaves is the model's choice (log 28). -/
def execPollResponse (maxAttempts : Nat) (s : State) : Host.Outcome State Fault Refusal :=
  .next (poll maxAttempts s)

end Sys2Proof.Machine
end

