-- ==== Sys2Proof/Machine/Transaction.lean ====
section
/-!
DEFINITION. The Transaction Wrapper: `sendCommand` (42_transaction.md), and the card commands, each of which is one
transaction with operands of its own (43_init_sequence.md R165, R168, R171, R172, R176, R182; 30_encoding.md R104).
-/

namespace Sys2Proof.Machine

/-- Bytes sent one after the other, the bytes received discarded (42_transaction.md R143). -/
def sendBytes : List Byte → State → State
  | [], s => s
  | b :: bs, s => sendBytes bs (s.sendXchg b)

/-- One whole transaction (42_transaction.md R140, the pseudocode line by line): frame, select, settle byte, six frame
bytes, poll, deselect, release byte. -/
def transact (c : Command) (s : State) : State :=
  let s := (s.writeFrame c.frame).selAssert
  let s := (s.xchg Config.filler).setBidx 0
  let s := sendBytes c.frame.toList s
  let s := poll (s.pollBoundOf c.index) s
  (s.selDeassert.xchg Config.filler).enterPhase .none

/-- A transaction starts with `tph = T_NONE` (42_transaction.md R141); inside another one it has no meaning (R149;
20_memory.md R72; U5). DESIGN CHOICE: placed during a byte loop (`S1_CLOCKS`, `S5_OCRBYTES`, where `tph` is `T_NONE`) it is
carried out and leaves `bidx = 6` to that loop, of which the spec says nothing (log 29). -/
def runTransaction (c : Command) (s : State) : Host.Outcome State Fault Refusal :=
  if s.tph = .none then .next (transact c s) else .refused .transactionInProgress

/-- `sendCommand(index, argument, checksum)` (42_transaction.md R140). -/
def execSendCommand (index : Index) (argument : Arg) (checksum : Byte) (s : State) :
    Host.Outcome State Fault Refusal :=
  runTransaction ⟨index, argument, checksum⟩ s

end Sys2Proof.Machine
end

