-- ==== Sys2Proof/Machine/Commands.lean ====
section
/-!
DEFINITION. The six card commands and their pair. Each command's meaning is its transaction; its response is judged by
the sequencer, not by the command ("Errors: none by itself").
-/

namespace Sys2Proof.Machine

/-- `CMD0` (Reset): 43_init_sequence.md R165. -/
def execCmd0 (s : State) : Host.Outcome State Fault Refusal :=
  runTransaction cmd0Operands s

/-- `CMD8` (Interface condition): 43_init_sequence.md R168. -/
def execCmd8 (s : State) : Host.Outcome State Fault Refusal :=
  runTransaction cmd8Operands s

/-- `CMD55` (application-command prefix): 43_init_sequence.md R171. -/
def execCmd55 (crc : Byte) (s : State) : Host.Outcome State Fault Refusal :=
  runTransaction (cmd55Operands crc) s

/-- `CMD41` (operating-condition command): 43_init_sequence.md R172. -/
def execCmd41 (crc : Byte) (s : State) : Host.Outcome State Fault Refusal :=
  runTransaction (cmd41Operands crc) s

/-- `CMD58` (OCR read): 43_init_sequence.md R176. -/
def execCmd58 (crc : Byte) (s : State) : Host.Outcome State Fault Refusal :=
  runTransaction (cmd58Operands crc) s

/-- `CMD16` (Block length fix-up): 43_init_sequence.md R182. -/
def execCmd16 (crc : Byte) (s : State) : Host.Outcome State Fault Refusal :=
  runTransaction (cmd16Operands crc) s

/-- `ACMD41`: two complete transactions, `CMD55` then `CMD41`, nothing between them (30_encoding.md R104;
43_init_sequence.md R170). DESIGN CHOICE: placed during a byte loop it leaves `bidx = 6` to that loop, as every
transaction does (log 29). -/
def execAcmd41 (crc : Byte) (s : State) : Host.Outcome State Fault Refusal :=
  if s.tph = .none then .next (transact (cmd41Operands crc) (transact (cmd55Operands crc) s))
  else .refused .transactionInProgress

end Sys2Proof.Machine
end

