-- ==== Sys2Proof/Machine/Framer.lean ====
section
/-!
DEFINITION. The Command Framer: `buildFrame` (40_framer.md).
-/

namespace Sys2Proof.Machine

/-- `buildFrame(index, argument, checksum)`: writes `frame` and nothing else; no event, no error (40_framer.md R120). The
block itself invokes it only as a transaction starts (R124). DESIGN CHOICE: placed while a transaction is in flight it is
carried out too and replaces the frame bytes still to be sent, of which the spec says nothing (log 28). -/
def execBuildFrame (index : Index) (argument : Arg) (checksum : Byte) (s : State) :
    Host.Outcome State Fault Refusal :=
  .next (s.writeFrame (frameBytes index argument checksum))

end Sys2Proof.Machine
end

