-- ==== Sys2Proof/Machine/Checks.lean ====
section
/-!
DEFINITION. The judgements of the sequencer: one check per program point that issues a command, evaluated when its
transaction is complete, and the classification of step 6 (43_init_sequence.md). In a loop check the success test comes
before the bound test (D15).
-/

namespace Sys2Proof.Machine

/-- Step 2 check (R166). -/
def checkReset (s : State) : State :=
  let s := s.setAttempt (s.attempt + 1)
  if s.resp.is Config.r1Idle then (s.setCardState .reset).goto .s3Ifcond
  else if s.attempt = BitVec.ofNat 8 Config.resetAttemptMax then s.raiseInitError .resetFailed
  else s

/-- Step 3 check (R169). -/
def checkIfcond (s : State) : State :=
  if s.resp.is Config.r1Idle then ((s.setCardState .versionChecked).setIter 0).goto .s4App
  else s.raiseInitError .unsupportedCard

/-- After `CMD55`: its response is ignored (R171). -/
def checkApp (s : State) : State :=
  s.goto .s4Opcond

/-- Step 4 check (R173). -/
def checkOpcond (s : State) : State :=
  let s := s.setIter (s.iter + 1)
  if s.resp.is Config.r1Ready then (s.setCardState .voltageNegotiated).goto .s5Ocrcmd
  else if s.iter = BitVec.ofNat 16 Config.opcondIterMax then s.raiseInitError .voltageNegotiationTimeout
  else s.goto .s4App

/-- Step 5 check (R177). -/
def checkOcrcmd (s : State) : State :=
  if s.resp.is Config.r1Ready then (s.setBidx 0).goto .s5Ocrbytes
  else s.raiseInitError .ocrReadError

/-- Step 7 check (R183): a warning at most. -/
def checkBlklen (s : State) : State :=
  let s := if s.resp.is Config.r1Ready then s else s.warn.diag Config.wBlklen
  (s.setCardState .blockLengthSet).goto .s8Speed

/-- The check of the program point the block is at; at a point that issues no command there is none. -/
def check (s : State) : State :=
  match s.seq with
  | .s2Reset => checkReset s
  | .s3Ifcond => checkIfcond s
  | .s4App => checkApp s
  | .s4Opcond => checkOpcond s
  | .s5Ocrcmd => checkOcrcmd s
  | .s7Blklen => checkBlklen s
  | .idle => s
  | .s1Speed => s
  | .s1Delay => s
  | .s1Clocks => s
  | .s5Ocrbytes => s
  | .s6Classify => s
  | .s8Speed => s
  | .s8Desel => s

/-- Step 6: the card type is bit 30 of `ocr` (R180). -/
def classify (s : State) : State :=
  ((s.setCardType (cardTypeOf s.ocr)).setCardState .capacityKnown).goto .s7Blklen

/-- Step 8, speed (R185). -/
def finalizeSpeed (s : State) : State :=
  s.speedOper.goto .s8Desel

/-- Step 8, deselect, and the end of the run (R186). -/
def finalizeDesel (s : State) : State :=
  s.selDeassert.finishOk

end Sys2Proof.Machine
end

