-- ==== Sys2Proof/Machine/Init.lean ====
section
/-!
DEFINITION. The Card Initialization State Machine as one operation: `initializeCard`, the pseudocode of
43_init_sequence.md R160 from its first line to its last. A failure leaves the block in `IDLE`, at which no later stage
does anything (60_exceptions.md R210).
-/

namespace Sys2Proof.Machine

/-- Step 1: speed, delay, ten filler bytes (R161, R162, R163). -/
def powerUp (s : State) : State :=
  let s := s.speedInit.goto .s1Delay
  let s := ((s.delay Config.powerupDelayMs).setBidx 0).goto .s1Clocks
  let s := sendBytes (List.replicate Config.powerupFillerBytes Config.filler) s
  (s.setAttempt 0).goto .s2Reset

/-- Step 2, one attempt (R165, R166). -/
def resetAttempt (s : State) : State :=
  checkReset (transact cmd0Operands s)

/-- Step 3 (R168, R169). -/
def ifcond (s : State) : State :=
  checkIfcond (transact cmd8Operands s)

/-- Step 4, one iteration (R170 to R173). -/
def opcondIteration (s : State) : State :=
  let s := checkApp (transact (cmd55Operands s.params.crcFiller) s)
  checkOpcond (transact (cmd41Operands s.params.crcFiller) s)

/-- Step 5, command (R176, R177). -/
def ocrCommand (s : State) : State :=
  checkOcrcmd (transact (cmd58Operands s.params.crcFiller) s)

/-- The four OCR exchanges (R178). -/
def ocrExchanges (s : State) : State :=
  s.ocrXchg.ocrXchg.ocrXchg.ocrXchg

/-- Step 5, bytes (R178). -/
def readOcr (s : State) : State :=
  (ocrExchanges s).goto .s6Classify

/-- Step 7 (R182, R183). -/
def blklen (s : State) : State :=
  checkBlklen (transact (cmd16Operands s.params.crcFiller) s)

/-- Step 8 (R185, R186). -/
def finalize (s : State) : State :=
  finalizeDesel (finalizeSpeed s)

/-- The whole run, from the acceptance of the start (R160). -/
def initSequence (s : State) : State :=
  let s := powerUp s.acceptStart
  let s := whileAt .s2Reset resetAttempt Config.resetAttemptMax s
  let s := atPoint .s3Ifcond ifcond s
  let s := whileAt .s4App opcondIteration Config.opcondIterMax s
  let s := atPoint .s5Ocrcmd ocrCommand s
  let s := atPoint .s5Ocrbytes readOcr s
  let s := atPoint .s6Classify classify s
  let s := atPoint .s7Blklen blklen s
  atPoint .s8Speed finalize s

/-- `initializeCard()`: the whole run when the block is idle (R160, 60_exceptions.md R221); no effect during a run
(R223). -/
def execInitializeCard (s : State) : Host.Outcome State Fault Refusal :=
  .next (if s.seq = .idle then initSequence s else s)

end Sys2Proof.Machine
end

