-- ==== Sys2Proof/Machine/Sequencer.lean ====
section
/-!
DEFINITION. The sequencer as it runs: one step is one completed event or one internal transition that emits none
(00_scope.md R11; 10_state.md R30 to R32). The call a state raises is `State.request`, what happens when it completes is
`advance`, and `tick` waits for the collaborator (60_exceptions.md R229, 70_reset_and_hazards.md R249).
-/

namespace Sys2Proof.Machine

/-- A call the block raises on a collaborator (60_exceptions.md R217, R229). -/
inductive Request where
  /-- `exchangeByte(tx)` -/
  | xchg (tx : Byte)
  /-- `selectAssert()` for true, `selectDeassert()` for false -/
  | select (asserted : Bool)
  /-- `setInitSpeed()`, `setOperationalSpeed()` -/
  | speed (target : BusSpeed)
  /-- `delayMilliseconds(ms)` -/
  | delay (ms : BitVec 16)
  deriving DecidableEq, Repr

/-- The call raised inside a transaction, by phase (10_state.md R31). -/
def State.phaseRequest (s : State) : Option Request :=
  match s.tph with
  | .none => none
  | .assert => some (.select true)
  | .settle => some (.xchg Config.filler)
  | .frame => s.frameByte.map .xchg
  | .poll => if s.polls < s.bound then some (.xchg Config.filler) else none
  | .deassert => some (.select false)
  | .trail => some (.xchg Config.filler)

/-- The call raised in a state, by program point; none in `IDLE` and at internal transitions (10_state.md R30). -/
def State.request (s : State) : Option Request :=
  match s.seq with
  | .idle => none
  | .s1Speed => some (.speed .init)
  | .s1Delay => some (.delay Config.powerupDelayMs)
  | .s1Clocks => if s.bidx.toNat < Config.powerupFillerBytes then some (.xchg Config.filler) else none
  | .s2Reset => s.phaseRequest
  | .s3Ifcond => s.phaseRequest
  | .s4App => s.phaseRequest
  | .s4Opcond => s.phaseRequest
  | .s5Ocrcmd => s.phaseRequest
  | .s5Ocrbytes => if s.bidx.toNat < Config.ocrLen then some (.xchg Config.filler) else none
  | .s6Classify => none
  | .s7Blklen => s.phaseRequest
  | .s8Speed => some (.speed .operational)
  | .s8Desel => some (.select false)

/-- `S1_CLOCKS`: one of ten filler bytes; after the tenth, step 2 begins (R163). With no byte left the loop is over;
the block by itself never gets there (logs 22, 29). -/
def advanceClocks (s : State) : State :=
  if s.bidx.toNat + 1 < Config.powerupFillerBytes then s.sendXchg Config.filler
  else if s.bidx.toNat < Config.powerupFillerBytes then ((s.sendXchg Config.filler).setAttempt 0).goto .s2Reset
  else (s.setAttempt 0).goto .s2Reset

/-- `S5_OCRBYTES`: one of four OCR bytes; after the fourth, step 6 (R178). With no byte left the loop is over;
the block by itself never gets there, but an operation placed during the loop can lead there (logs 22, 29). -/
def advanceOcr (s : State) : State :=
  if s.bidx.toNat + 1 < Config.ocrLen then s.ocrXchg
  else if s.bidx.toNat < Config.ocrLen then s.ocrXchg.goto .s6Classify
  else s.goto .s6Classify

/-- The poll of a command starts (42_transaction.md R144; 41_poller.md R130). -/
def enterPoll (c : Command) (s : State) : State :=
  (s.startPoll (s.pollBoundOf c.index)).enterPhase .poll

/-- `T_FRAME`: one of six frame bytes; after byte 5 the poll starts (R143, R144). With no byte left
the loop is over; no run gets there (log 22). -/
def advanceFrame (c : Command) (s : State) : State :=
  match s.frameByte with
  | some b => if s.bidx.toNat + 1 < Config.frameLen then s.sendXchg b else enterPoll c (s.sendXchg b)
  | none => enterPoll c s

/-- `T_POLL`: one turn of the poll loop; NoResponse when no exchange is left (41_poller.md R130). DESIGN CHOICE: a reply ends
the poll in the step of its exchange, NoResponse is written and the poll left in an internal step of its own after the last
exchange (log 2). -/
def advancePoll (s : State) : State :=
  if s.polls < s.bound then
    if s.nextByte = Config.filler then s.pollXchg
    else (s.pollXchg.setResp (.reply s.nextByte)).enterPhase .deassert
  else (s.setResp .noResponse).enterPhase .deassert

/-- A transaction point, by phase (42_transaction.md R141 to R147). The frame is built in the internal step that leaves
`T_NONE`; the check is part of the step in which the release byte brings `tph` back to `T_NONE` (log 2). -/
def advanceTransaction (c : Command) (s : State) : State :=
  match s.tph with
  | .none => (s.writeFrame c.frame).enterPhase .assert
  | .assert => s.selAssert.enterPhase .settle
  | .settle => ((s.xchg Config.filler).setBidx 0).enterPhase .frame
  | .frame => advanceFrame c s
  | .poll => advancePoll s
  | .deassert => s.selDeassert.enterPhase .trail
  | .trail => check ((s.xchg Config.filler).enterPhase .none)

/-- What the block does when the call it raises completes, or in an internal step (43_init_sequence.md R187). -/
def advance (s : State) : State :=
  match s.seq with
  | .idle => if s.start then s.acceptStart else s
  | .s1Speed => s.speedInit.goto .s1Delay
  | .s1Delay => ((s.delay Config.powerupDelayMs).setBidx 0).goto .s1Clocks
  | .s1Clocks => advanceClocks s
  | .s2Reset => advanceTransaction cmd0Operands s
  | .s3Ifcond => advanceTransaction cmd8Operands s
  | .s4App => advanceTransaction (cmd55Operands s.params.crcFiller) s
  | .s4Opcond => advanceTransaction (cmd41Operands s.params.crcFiller) s
  | .s5Ocrcmd => advanceTransaction (cmd58Operands s.params.crcFiller) s
  | .s5Ocrbytes => advanceOcr s
  | .s6Classify => classify s
  | .s7Blklen => advanceTransaction (cmd16Operands s.params.crcFiller) s
  | .s8Speed => finalizeSpeed s
  | .s8Desel => finalizeDesel s

/-- One step of the sequencer: while a collaborator has not completed the call raised, the block stays where it is
(70_reset_and_hazards.md R249, U4). -/
def tick (s : State) : State :=
  if s.request.isSome && !s.ack then s else advance s

/-- The operation placed in the slot, decoded (log 1). -/
def fetch (s : State) : Option (Except DecodeError Instr) :=
  s.slot.map decode

/-- Places the words of an opcode-table row in the slot, with reset not raised, so that the next step runs it (log 1). -/
def placeWord (s : State) (nbits w : Nat) : State :=
  { s with slot := some (tablePacket nbits w), rst := false }

end Sys2Proof.Machine
end

