-- ==== Sys2Proof/Machine/Received.lean ====
section
/-!
DEFINITION. What the block receives: the four classes of a byte (30_encoding.md R95) and the OCR reply (R96). A received
byte acts through the exchange the block is making: in a poll it is classified, in an exchange made to send it is
discarded (20_memory.md R67), at `S5_OCRBYTES` it is data (43_init_sequence.md R178); where the block makes no exchange no
byte is received (log 10).
-/

namespace Sys2Proof.Machine

/-- The card returns `b` in the exchange the block is making, if it is making one. -/
def receive (b : Byte) (s : State) : State :=
  match s.request with
  | some (.xchg _) => advance (s.offer [b])
  | some (.select _) => s
  | some (.speed _) => s
  | some (.delay _) => s
  | none => s

/-- `RESP.FILLER`: in a poll, "no response yet" and the poll goes on; at the bound its NoResponse follows in an internal step
of the sequencer (R95; log 2). -/
def execRespFiller (s : State) : Host.Outcome State Fault Refusal :=
  .next (receive Config.filler s)

/-- `RESP.READY`: in a poll, the reply `R1_READY`, which ends it (R95). -/
def execRespReady (s : State) : Host.Outcome State Fault Refusal :=
  .next (receive Config.r1Ready s)

/-- `RESP.IDLE`: in a poll, the reply `R1_IDLE`, which ends it (R95). -/
def execRespIdle (s : State) : Host.Outcome State Fault Refusal :=
  .next (receive Config.r1Idle s)

/-- `RESP.OTHER`: in a poll, a reply that ends it and is never a success (R95). -/
def execRespOther (r : Byte) (s : State) : Host.Outcome State Fault Refusal :=
  .next (receive r s)

/-- `OCR`: at the start of the OCR read the four bytes are exchanged, assembled and classified (43_init_sequence.md R178,
R180). At no other point is an OCR reply read (30_encoding.md R97; log 11). -/
def execOcr (word : BitVec 32) (s : State) : Host.Outcome State Fault Refusal :=
  .next (if s.seq = .s5Ocrbytes ∧ s.bidx = 0 then classify (readOcr (s.offer (ocrBytes word))) else s)

end Sys2Proof.Machine
end

