-- ==== Sys2Proof/Machine/Dispatch.lean ====
section
/-!
DEFINITION. The one match from an operation to its meaning.
-/

namespace Sys2Proof.Machine

def exec (i : Instr) (s : State) : Host.Outcome State Fault Refusal :=
  match i with
  | .cmd0 => Sys2Proof.Machine.execCmd0 s
  | .cmd8 => Sys2Proof.Machine.execCmd8 s
  | .cmd55 crc => Sys2Proof.Machine.execCmd55 crc s
  | .cmd41 crc => Sys2Proof.Machine.execCmd41 crc s
  | .cmd58 crc => Sys2Proof.Machine.execCmd58 crc s
  | .cmd16 crc => Sys2Proof.Machine.execCmd16 crc s
  | .acmd41 crc => Sys2Proof.Machine.execAcmd41 crc s
  | .buildFrame index argument checksum => Sys2Proof.Machine.execBuildFrame index argument checksum s
  | .sendCommand index argument checksum => Sys2Proof.Machine.execSendCommand index argument checksum s
  | .pollResponse maxAttempts => Sys2Proof.Machine.execPollResponse maxAttempts s
  | .initializeCard => Sys2Proof.Machine.execInitializeCard s
  | .respFiller => Sys2Proof.Machine.execRespFiller s
  | .respReady => Sys2Proof.Machine.execRespReady s
  | .respIdle => Sys2Proof.Machine.execRespIdle s
  | .respOther r => Sys2Proof.Machine.execRespOther r s
  | .ocr word => Sys2Proof.Machine.execOcr word s

end Sys2Proof.Machine
end

