-- ==== Sys2Proof/Machine/Step.lean ====
section
/-!
DEFINITION. One step of the machine: reset if `rst` is raised (70_reset_and_hazards.md R240); else the operation placed
in the slot, if there is one (log 1); else one step of the sequencer (00_scope.md R11).
-/

namespace Sys2Proof.Machine

/-- One step. -/
def step (s : State) : Host.Outcome State Fault Refusal :=
  if s.rst then .next s.applyReset
  else
    match fetch s with
    | none => .next (tick s)
    | some (.ok i) => exec i s.takeSlot
    | some (.error e) => .refused (.undecodable e)

/-- `s` with the words of an opcode-table row placed where the next step takes them up (log 1). -/
def State.withFetchWord (s : State) (nbits w : Nat) : State :=
  placeWord s nbits w

end Sys2Proof.Machine
end

