-- ==== Sys2Proof/Machine/Ports.lean ====
section
/-!
DEFINITION. The outputs of the block as the host and the collaborators see them: the codes of the status registers
(10_state.md R30 to R38; D4, D32) and the ports of 60_exceptions.md R229, all functions of the state. Reading them has
no side effect (R224).
-/

namespace Sys2Proof.Machine

/-- R30. -/
def Seq.code : Seq → BitVec 4
  | .idle => 0
  | .s1Speed => 1
  | .s1Delay => 2
  | .s1Clocks => 3
  | .s2Reset => 4
  | .s3Ifcond => 5
  | .s4App => 6
  | .s4Opcond => 7
  | .s5Ocrcmd => 8
  | .s5Ocrbytes => 9
  | .s6Classify => 10
  | .s7Blklen => 11
  | .s8Speed => 12
  | .s8Desel => 13

/-- R31. -/
def Phase.code : Phase → BitVec 3
  | .none => 0
  | .assert => 1
  | .settle => 2
  | .frame => 3
  | .poll => 4
  | .deassert => 5
  | .trail => 6

/-- R34. -/
def CardState.code : CardState → BitVec 3
  | .uninitialized => 0
  | .reset => 1
  | .versionChecked => 2
  | .voltageNegotiated => 3
  | .capacityKnown => 4
  | .blockLengthSet => 5
  | .ready => 6
  | .failed => 7

/-- R35. -/
def ErrKind.code : ErrKind → BitVec 3
  | .none => 0
  | .resetFailed => 1
  | .unsupportedCard => 2
  | .voltageNegotiationTimeout => 3
  | .ocrReadError => 4

/-- R36. -/
def CardType.code : CardType → BitVec 1
  | .sdv2 => 0
  | .sdhc => 1

/-- R37. -/
def BusSpeed.code : BusSpeed → BitVec 1
  | .init => 0
  | .operational => 1

/-- The output ports (60_exceptions.md R229). A request carries its payload, and at most one request is raised, by its
type; the payload wires of a request not raised mean nothing. -/
structure PortsOut where
  busy : Bool
  done : Bool
  ok : Bool
  cardType : BitVec 1
  cardTypeValid : Bool
  errKind : BitVec 3
  cardState : BitVec 3
  warnBlklen : Bool
  busSpeed : BitVec 1
  sel : Bool
  /-- `xchg_req`/`xchg_tx`, `sel_req`/`sel_val`, `spd_req`/`spd_val`, `dly_req`/`dly_ms` -/
  request : Option Request
  /-- `diag_stb`/`diag_code`: strobed as the step 7 check finds the `CMD16` response not ready (R183, R226) -/
  diag : Option (BitVec 3)
  deriving DecidableEq, Repr

/-- The strobe of the step 7 check. DESIGN CHOICE: it is a function of the sequencer's state and `ack` alone. So it shows also
in a cycle where `rst` is raised or an operation is placed that makes no check, and it does not show with `ack = 0`, where a
placed RESP row makes the check and emits `LG` all the same; the spec is silent on these cycles (log 23). -/
def State.diagStrobe (s : State) : Option (BitVec 3) :=
  if s.seq = .s7Blklen ∧ s.tph = .trail ∧ s.ack = true ∧ s.resp.is Config.r1Ready = false then some Config.wBlklen
  else none

/-- The ports in a state. -/
def State.ports (s : State) : PortsOut where
  busy := s.busy
  done := s.done
  ok := s.ok
  cardType := s.cardType.code
  cardTypeValid := s.cardTypeValid
  errKind := s.errKind.code
  cardState := s.cardState.code
  warnBlklen := s.warnBlklen
  busSpeed := s.busSpeed.code
  sel := s.sel
  request := s.request
  diag := s.diagStrobe

/-- The `Result<CardType, InitError>` the host reads (60_exceptions.md R222); none while `done = 0`. -/
def State.result (s : State) : Option (Except ErrKind CardType) :=
  if s.done then some (if s.ok then .ok s.cardType else .error s.errKind) else none

end Sys2Proof.Machine
end

