-- ==== Sys2Proof/Safety.lean ====
section
/-!
DEFINITION. The terms the claims are stated in: the invariant of the block (10_state.md R45, with R22, R31, R34 and the
loop bounds that make it inductive), the bytes the card is about to return, and the events of a poll and a transaction.
-/

namespace Sys2Proof.Machine

/-! ## The environment's side of a step -/

/-- Nothing stands in the sequencer's way: reset is not raised, no operation is placed, and the collaborators answer. -/
def State.Live (s : State) : Prop := s.rst = false ∧ s.slot = none ∧ s.ack = true

/-- The byte the card returns in the `j`-th exchange from now (from 0): listed, or free (20_memory.md R77). -/
def State.byteAt (s : State) (j : Nat) : Byte := (s.rx[j]?).getD (Config.cardByte (s.rxCount + j))

/-- The byte the card returns by a RESP row (30_encoding.md R95; log 10); none for the other rows. -/
def receivedByte : Instr → Option Byte
  | .respFiller => some 0xFF
  | .respReady => some 0x00
  | .respIdle => some 0x01
  | .respOther r => some r
  | .cmd0 => none
  | .cmd8 => none
  | .cmd55 _ => none
  | .cmd41 _ => none
  | .cmd58 _ => none
  | .cmd16 _ => none
  | .acmd41 _ => none
  | .buildFrame _ _ _ => none
  | .sendCommand _ _ _ => none
  | .pollResponse _ => none
  | .initializeCard => none
  | .ocr _ => none

/-! ## Card State and program point -/

/-- The order of the Card States (10_state.md R34). -/
def CardState.rank : CardState → Nat
  | .uninitialized => 0
  | .reset => 1
  | .versionChecked => 2
  | .voltageNegotiated => 3
  | .capacityKnown => 4
  | .blockLengthSet => 5
  | .ready => 6
  | .failed => 7

/-- The Card States a program point can be seen with (10_state.md R34; 43_init_sequence.md R160). -/
def Seq.admits : Seq → CardState → Bool
  | .idle, c => c == .uninitialized || c == .ready || c == .failed
  | .s1Speed, c => c == .uninitialized
  | .s1Delay, c => c == .uninitialized
  | .s1Clocks, c => c == .uninitialized
  | .s2Reset, c => c == .uninitialized
  | .s3Ifcond, c => c == .reset
  | .s4App, c => c == .versionChecked
  | .s4Opcond, c => c == .versionChecked
  | .s5Ocrcmd, c => c == .voltageNegotiated
  | .s5Ocrbytes, c => c == .voltageNegotiated
  | .s6Classify, c => c == .voltageNegotiated
  | .s7Blklen, c => c == .capacityKnown
  | .s8Speed, c => c == .blockLengthSet
  | .s8Desel, c => c == .blockLengthSet

/-- The program points after the classification of step 6. -/
def Seq.classified : Seq → Bool
  | .s7Blklen => true
  | .s8Speed => true
  | .s8Desel => true
  | .idle => false
  | .s1Speed => false
  | .s1Delay => false
  | .s1Clocks => false
  | .s2Reset => false
  | .s3Ifcond => false
  | .s4App => false
  | .s4Opcond => false
  | .s5Ocrcmd => false
  | .s5Ocrbytes => false
  | .s6Classify => false

/-- The invariant of the block: 10_state.md R45 (a) to (g), the form of `resp` (R22), the phase rule (R31), the Card
State of each program point (R34), and the loop bounds from which (g) follows. -/
structure State.Inv (s : State) : Prop where
  /-- (a) -/
  busy_iff : s.busy = true ↔ s.seq ≠ .idle
  /-- R31: a phase other than `T_NONE` only at a transaction point -/
  phase_point : s.tph ≠ .none → s.seq.isTransaction = true
  /-- (b), both ways -/
  sel_iff : s.sel = s.tph.selected
  /-- (c), R39 -/
  done_iff : s.done = true ↔ s.cardState = .ready ∨ s.cardState = .failed
  /-- (c) -/
  ok_iff : (s.ok = true ∧ s.done = true) ↔ s.cardState = .ready
  /-- (c), R35 -/
  failed_iff : s.cardState = .failed ↔ s.errKind ≠ .none
  /-- (d) -/
  ready_final : s.cardState = .ready → s.busSpeed = .operational ∧ s.sel = false ∧ s.cardTypeValid = true
  /-- (e) -/
  failed_final : s.cardState = .failed → s.busSpeed = .init ∧ s.sel = false
  /-- (f) -/
  operational_points : s.busSpeed = .operational →
    s.seq = .s8Desel ∨ (s.seq = .idle ∧ s.cardState = .ready) ∨ s.seq = .s1Speed
  /-- R185: the operational speed is set before `S8_DESEL` -/
  desel_speed : s.seq = .s8Desel → s.busSpeed = .operational
  /-- R36: the card type is valid from step 6 on -/
  classified_valid : s.seq.classified = true → s.cardTypeValid = true
  /-- R34 -/
  point_state : s.seq.admits s.cardState = true
  /-- (g) -/
  attempt_le : s.attempt.toNat ≤ 200
  /-- (g): below the bound while step 2 goes on -/
  attempt_lt : s.seq = .s2Reset → s.attempt.toNat < 200
  /-- (g): below the bound while step 4 goes on, so `iter + 1` never wraps -/
  iter_lt : s.seq = .s4App ∨ s.seq = .s4Opcond → s.iter.toNat < 65535
  /-- (g) -/
  polls_le : s.polls ≤ s.bound
  /-- (g) -/
  bidx_le : s.bidx.toNat ≤ 10
  /-- R22 -/
  resp_form : s.resp.isNone = true ↔ s.resp.byte = 0xFF

/-! ## Events -/

/-- An exchange that sent `out`. -/
def Event.sent (out : Byte) : Event → Bool
  | .xchg o _ => o == out
  | .selAssert => false
  | .selDeassert => false
  | .speedInit => false
  | .speedOper => false
  | .delay _ => false
  | .diag _ => false

/-- An exchange. -/
def Event.isXchg : Event → Bool
  | .xchg _ _ => true
  | .selAssert => false
  | .selDeassert => false
  | .speedInit => false
  | .speedOper => false
  | .delay _ => false
  | .diag _ => false

/-- The event that completes a request (60_exceptions.md R229). -/
def Request.completedBy : Request → Event → Bool
  | .xchg tx, e => e.sent tx
  | .select b, e => e == (if b then .selAssert else .selDeassert)
  | .speed v, e => e == (match v with | .init => .speedInit | .operational => .speedOper)
  | .delay ms, e => e == .delay ms

/-- The result of a poll of at most `bound` exchanges, the first of them the `first`-th exchange from `s`: it made `k` and
gave `r` (41_poller.md R130, R132). -/
def PollOutcome (s : State) (first bound k : Nat) (r : Resp) : Prop :=
  (k = bound ∧ r = .noResponse ∧ ∀ j < k, s.byteAt (first + j) = 0xFF) ∨
  (∃ j, k = j + 1 ∧ k ≤ bound ∧ s.byteAt (first + j) ≠ 0xFF ∧ r = .reply (s.byteAt (first + j)) ∧
    ∀ i < j, s.byteAt (first + i) = 0xFF)

/-- The events of `k` poll exchanges from the `first`-th exchange on, the oldest first. -/
def pollEvents (s : State) (first k : Nat) : List Event :=
  (List.range k).map fun j => .xchg 0xFF (s.byteAt (first + j))

/-- The events of a transaction that sends the six bytes `f` and makes `k` poll exchanges, the oldest first
(42_transaction.md R140, R148). -/
def transactionEvents (s : State) (f : Vector Byte 6) (k : Nat) : List Event :=
  [.selAssert, .xchg 0xFF (s.byteAt 0), .xchg f[0] (s.byteAt 1), .xchg f[1] (s.byteAt 2), .xchg f[2] (s.byteAt 3),
    .xchg f[3] (s.byteAt 4), .xchg f[4] (s.byteAt 5), .xchg f[5] (s.byteAt 6)]
    ++ pollEvents s 7 k ++ [.selDeassert, .xchg 0xFF (s.byteAt (7 + k))]

/-- The state after a transaction that sent the frame `f`, polled `k` times of at most `bound` and got `r`: everything
else is as in `s`. -/
def afterTransaction (s : State) (f : Vector Byte 6) (bound k : Nat) (r : Resp) : State :=
  { s with
    frame := f, resp := r, bound := bound, polls := k, bidx := 6, tph := .none, sel := false,
    rx := s.rx.drop (8 + k), rxCount := s.rxCount + (8 + k),
    events := (transactionEvents s f k).reverse ++ s.events }

/-! ## What the card answers -/

/-- `l` is what the block receives in a whole transaction of poll bound `bound` whose result is `r`: seven bytes while it
sends, whatever they are, then the poll, then the byte of the release exchange (42_transaction.md R140; 41_poller.md
R130). -/
def Answers (bound : Nat) (r : Resp) (l : List Byte) : Prop :=
  ∃ (lead : List Byte) (last : Byte), lead.length = 7 ∧
    ((r = .noResponse ∧ l = lead ++ (List.replicate bound 0xFF ++ [last])) ∨
      ∃ late b, late < bound ∧ b ≠ 0xFF ∧ r = .reply b ∧ l = lead ++ (List.replicate late 0xFF ++ [b, last]))

/-- What the block receives, transaction by transaction, in a run that goes through all eight steps. -/
structure RunScript where
  /-- the power-up clocks -/
  clocks : List Byte
  /-- the `CMD0` transactions before the last -/
  resets : List (List Byte)
  /-- the last `CMD0` transaction -/
  reset : List Byte
  /-- `CMD8` -/
  ifcond : List Byte
  /-- the pairs of `CMD55` and `CMD41` before the last -/
  pairs : List (List Byte × List Byte)
  /-- the last `CMD55` -/
  app : List Byte
  /-- the last `CMD41` -/
  opcond : List Byte
  /-- `CMD58` -/
  ocrCommand : List Byte
  /-- the OCR -/
  ocr : BitVec 32
  /-- `CMD16` -/
  blklen : List Byte

/-- The bytes of a run in order. -/
def RunScript.bytes (c : RunScript) : List Byte :=
  c.clocks ++ (c.resets.flatten ++ (c.reset ++ (c.ifcond ++ ((c.pairs.map fun p => p.1 ++ p.2).flatten ++
    (c.app ++ (c.opcond ++ (c.ocrCommand ++ (ocrBytes c.ocr ++ c.blklen))))))))

/-- The card answers as each step asks, within the bounds: `CMD0` and `CMD8` with the idle code, `CMD41` and `CMD58` with
zero, `CMD55` and `CMD16` with anything; `final` is the result of `CMD16` (43_init_sequence.md R166, R169, R171, R173, R177,
R183). -/
structure RunScript.Succeeds (c : RunScript) (s : State) (final : Resp) : Prop where
  clocks : c.clocks.length = 10
  resets_lt : c.resets.length < 200
  resets : ∀ l ∈ c.resets, ∃ r, r ≠ ⟨false, 0x01⟩ ∧ Answers (s.pollBoundOf 0) r l
  reset : Answers (s.pollBoundOf 0) ⟨false, 0x01⟩ c.reset
  ifcond : Answers (s.pollBoundOf 8) ⟨false, 0x01⟩ c.ifcond
  pairs_lt : c.pairs.length < 65535
  pairs : ∀ p ∈ c.pairs, (∃ r, Answers (s.pollBoundOf 55) r p.1) ∧
    ∃ r, r ≠ ⟨false, 0x00⟩ ∧ Answers (s.pollBoundOf 41) r p.2
  app : ∃ r, Answers (s.pollBoundOf 55) r c.app
  opcond : Answers (s.pollBoundOf 41) ⟨false, 0x00⟩ c.opcond
  ocrCommand : Answers (s.pollBoundOf 58) ⟨false, 0x00⟩ c.ocrCommand
  blklen : Answers (s.pollBoundOf 16) final c.blklen

/-! ## Runs compared -/

/-- What the host and the bus can tell of a finished run: the status registers, `cardType` where it means anything, and
the events since `before` (60_exceptions.md R222, R224). -/
def SameRun (before₁ after₁ before₂ after₂ : State) : Prop :=
  after₁.cardState = after₂.cardState ∧ after₁.errKind = after₂.errKind ∧ after₁.cardTypeValid = after₂.cardTypeValid ∧
  (after₁.cardTypeValid = true → after₁.cardType = after₂.cardType) ∧ after₁.busSpeed = after₂.busSpeed ∧
  after₁.sel = after₂.sel ∧ after₁.busy = after₂.busy ∧ after₁.done = after₂.done ∧ after₁.ok = after₂.ok ∧
  after₁.warnBlklen = after₂.warnBlklen ∧
  ∃ es, after₁.events = es ++ before₁.events ∧ after₂.events = es ++ before₂.events

end Sys2Proof.Machine
end

