-- ==== Sys2Proof/Certificates/Slice0/Obligations.lean ====
section
/-!
DEFINITION. The statements for the provers. A docstring names the rule of spec/ a statement formalises, or says that it
rests on a decision of the spec or a choice of the model.
-/

open Sys2Proof Sys2Proof.Machine

/-! ## Encoding -/

/-- Every well-formed operation decodes from its own packet, with every operand. The model's choices in it: the packet
names the port, which tells rows with the same bits apart, and the generic rows are fallbacks (log 12); the poll port carries
`maxAttempts` beside the wire (log 27). The patterns are those of spec/opcode_table.json. -/
def Obligations.DecodeEncodeRoundTrip : Prop :=
  ∀ i : Instr, i.wellFormed = true → decode (encode i) = .ok i

/-- Packets that decode have one spelling, and what they decode to is well-formed: no reserved words fall through. That
the port is part of the packet and that a generic row is well-formed only where no specific row has its words is the model's
choice (log 12), after the table's note "fallback row, to be matched after the six command rows". -/
def Obligations.DecodedWordsHaveOneSpelling : Prop :=
  ∀ (p : Packet) (i : Instr), decode p = .ok i → i.wellFormed = true ∧ encode i = p

/-- 40_framer.md R125 (the spec marks it derived): the fields come back from the frame, and the frames are exactly the
48-bit values whose bits 47:46 are `01`. -/
def Obligations.FrameFieldsComeBack : Prop :=
  (∀ (i : Index) (a : Arg) (c : Byte),
    (frameBytes i a c)[0].extractLsb' 0 6 = i ∧
    (frameBytes i a c)[1] ++ (frameBytes i a c)[2] ++ (frameBytes i a c)[3] ++ (frameBytes i a c)[4] = a ∧
    (frameBytes i a c)[5] = c) ∧
  ∀ f : Vector Byte 6, (∃ i a c, frameBytes i a c = f) ↔ f[0].extractLsb' 6 2 = 0b01#2

/-- Words written out from the table's encodings (spec/opcode_table.json; 30_encoding.md R94) decode to their rows. What is
not the source's in these words: the checksums `95` and `87` and the arguments `0x000001AA` and `0x40000000` are the spec's
general knowledge (D8, D9, D10; log 16), the indices and the zero arguments of `CMD55` and `CMD58` decisions D6 and D11
(log 17), the free checksum of the last four commands the table's pattern (log 13). That eight bits are read as a received byte
is the model's choice (log 12), and the byte order of the table's numbers is read from its match values (log 24). -/
def Obligations.TableWordsDecode : Prop :=
  decodeTableWord 48 0x400000000095 = some .cmd0 ∧
  decodeTableWord 48 0x48000001AA87 = some .cmd8 ∧
  decodeTableWord 48 0x7700000000FF = some (.cmd55 0xFF) ∧
  decodeTableWord 48 0x6940000000FF = some (.cmd41 0xFF) ∧
  decodeTableWord 48 0x7A00000000FF = some (.cmd58 0xFF) ∧
  decodeTableWord 48 0x5000000200FF = some (.cmd16 0xFF) ∧
  decodeTableWord 48 0x5112345678AB = some (.buildFrame 17 0x12345678 0xAB) ∧
  decodeTableWord 48 0xC00000000095 = none ∧
  decodeTableWord 8 0x80 = some (.respOther 0x80) ∧
  decodeTableWord 32 0x40000000 = some (.ocr 0x40000000)

/-! ## The framer -/

/-- 40_framer.md R121: the bytes of the constructed frame, for any operands in any state; nothing else changes. -/
def Obligations.BuildFrameWritesTheFrame : Prop :=
  ∀ (index : Index) (argument : Arg) (checksum : Byte) (s : State),
    ∃ t, exec (.buildFrame index argument checksum) s = .next t ∧
      t.frame[0] = 0x40#8 ||| index.setWidth 8 ∧
      t.frame[1] = argument.extractLsb' 24 8 ∧ t.frame[2] = argument.extractLsb' 16 8 ∧
      t.frame[3] = argument.extractLsb' 8 8 ∧ t.frame[4] = argument.extractLsb' 0 8 ∧
      t.frame[5] = checksum ∧
      t = { s with frame := t.frame }

/-! ## The poller -/

/-- 41_poller.md R131: a poll all of whose bytes are `0xFF`, of any length, zero included, gives NoResponse, which equals no
code; it makes exactly its bound of exchanges (R132), given that each returns (decision D24, log 5). -/
def Obligations.SilentPollGivesNoResponse : Prop :=
  ∀ (n : Nat) (rest : List Byte) (s : State), s.rx = List.replicate n 0xFF ++ rest →
    ∃ t, exec (.pollResponse n) s = .next t ∧
      t.resp.isNone = true ∧ (∀ c, t.resp.is c = false) ∧
      t = { s with resp := ⟨true, 0xFF⟩, bound := n, polls := n, rx := rest, rxCount := s.rxCount + n,
                   events := List.replicate n (.xchg 0xFF 0xFF) ++ s.events }

/-- 41_poller.md R132, R134, R135: the first byte that is not `0xFF` ends the poll, whatever its bits, and nothing after
it is consumed, given that each exchange returns (decision D24, log 5). -/
def Obligations.PollStopsAtTheFirstReply : Prop :=
  ∀ (n k : Nat) (b : Byte) (rest : List Byte) (s : State), k < n → b ≠ 0xFF →
    s.rx = List.replicate k 0xFF ++ b :: rest →
    exec (.pollResponse n) s = .next
      { s with resp := ⟨false, b⟩, bound := n, polls := k + 1, rx := rest, rxCount := s.rxCount + (k + 1),
               events := .xchg 0xFF b :: (List.replicate k (.xchg 0xFF 0xFF) ++ s.events) }

/-- 41_poller.md R130: every poll completes, from any state, given that each exchange returns (decision D24, log 5); what it
gives, and all it changes. -/
def Obligations.PollResponseEffect : Prop :=
  ∀ (n : Nat) (s : State), ∃ k r, PollOutcome s 0 n k r ∧
    exec (.pollResponse n) s = .next
      { s with resp := r, bound := n, polls := k, rx := s.rx.drop k, rxCount := s.rxCount + k,
               events := (pollEvents s 0 k).reverse ++ s.events }

/-! ## What is received -/

/-- 30_encoding.md R95 in a poll with an exchange left: a filler lets the poll go on, each reply ends it, and nothing else
changes but the exchange made. That the four rows act as received bytes in this way is the model's reading (log 10), and
the value of `R1_IDLE` is the spec's general knowledge (log 16). That a reply writes `resp` and leaves `T_POLL` in the step of its
exchange, while a filler in the last exchange leaves the poll to an internal step that gives NoResponse, is the model's choice
(log 2); that step is `PollEndsAtItsBound`. -/
def Obligations.ReceivedByteDuringAPoll : Prop :=
  ∀ s : State, s.seq.isTransaction = true → s.tph = .poll → s.polls < s.bound →
    exec .respFiller s = .next
      { s with polls := s.polls + 1, rxCount := s.rxCount + 1, events := .xchg 0xFF 0xFF :: s.events } ∧
    exec .respReady s = .next
      { s with polls := s.polls + 1, rxCount := s.rxCount + 1, events := .xchg 0xFF 0x00 :: s.events,
               resp := ⟨false, 0x00⟩, tph := .deassert } ∧
    exec .respIdle s = .next
      { s with polls := s.polls + 1, rxCount := s.rxCount + 1, events := .xchg 0xFF 0x01 :: s.events,
               resp := ⟨false, 0x01⟩, tph := .deassert } ∧
    ∀ r : Byte, r ≠ 0xFF → exec (.respOther r) s = .next
      { s with polls := s.polls + 1, rxCount := s.rxCount + 1, events := .xchg 0xFF r :: s.events,
               resp := ⟨false, r⟩, tph := .deassert }

/-- 41_poller.md R130, R131, 30_encoding.md R95: a poll with no exchange left, after its last filler or with bound 0, ends with
NoResponse and makes no exchange. That this is an internal step of its own is the model's choice (log 2). -/
def Obligations.PollEndsAtItsBound : Prop :=
  ∀ s : State, s.rst = false → s.slot = none → s.seq.isTransaction = true → s.tph = .poll → s.bound ≤ s.polls →
    step s = .next { s with resp := ⟨true, 0xFF⟩, tph := .deassert }

/-- Where the block makes no exchange, no byte is received and nothing changes (20_memory.md R60; the model's reading,
log 10). -/
def Obligations.NoExchangeNoByte : Prop :=
  ∀ s : State, (∀ tx, s.request ≠ some (.xchg tx)) →
    exec .respFiller s = .next s ∧ exec .respReady s = .next s ∧ exec .respIdle s = .next s ∧
    ∀ r, exec (.respOther r) s = .next s

/-- A step of the sequencer in any exchange, a poll's or another, is the row of the byte it receives. That a RESP row is an
operation that acts through the exchange being made is the model's choice (log 10); the classes are those of
30_encoding.md R95, with the spec's general knowledge for `R1_IDLE` (log 16). -/
def Obligations.ExchangeStepIsTheRowOfItsByte : Prop :=
  ∀ (s : State) (i : Instr) (b tx : Byte) (rest : List Byte), s.Live → s.request = some (.xchg tx) →
    receivedByte i = some b → s.rx = b :: rest →
    step s = exec i { s with rx := rest }

/-- The RESP rows in the exchanges that are not a poll's, which the model's choice of log 10 lets them act through: in the
power-up clocks, the settle byte, the frame bytes and the release byte the byte is discarded (20_memory.md R67, decision D17),
in the OCR read it is data, shifted in from the right (43_init_sequence.md R178). The check that follows a release byte is
part of the same step (log 2); what it does is stated for each point. The byte of `RESP.IDLE` is general knowledge
(log 16). -/
def Obligations.ReceivedByteOutsideAPoll : Prop :=
  ∀ (s : State) (i : Instr) (b : Byte), receivedByte i = some b →
    (s.seq = .s1Clocks → s.bidx.toNat < 10 →
      let u := { s with bidx := s.bidx + 1, rxCount := s.rxCount + 1, events := .xchg 0xFF b :: s.events }
      exec i s = .next (if s.bidx = 9 then { u with attempt := 0, seq := .s2Reset } else u)) ∧
    (s.seq.isTransaction = true → s.tph = .settle →
      exec i s = .next { s with bidx := 0, tph := .frame, rxCount := s.rxCount + 1,
                                events := .xchg 0xFF b :: s.events }) ∧
    (∀ (c : Command) (k : Fin 6), pointCommand s.params s.seq = some c → s.tph = .frame → s.bidx = BitVec.ofNat 4 k →
      let u := { s with bidx := s.bidx + 1, rxCount := s.rxCount + 1, events := .xchg s.frame[k] b :: s.events }
      exec i s = .next (if k = 5 then { u with polls := 0, bound := s.pollBoundOf c.index, tph := .poll } else u)) ∧
    (s.seq.isTransaction = true → s.tph = .trail →
      exec i s = .next (check { s with tph := .none, rxCount := s.rxCount + 1,
                                       events := .xchg 0xFF b :: s.events })) ∧
    (s.seq = .s5Ocrbytes → s.bidx.toNat < 4 →
      let u := { s with ocr := s.ocr.extractLsb' 0 24 ++ b, bidx := s.bidx + 1, rxCount := s.rxCount + 1,
                        events := .xchg 0xFF b :: s.events }
      exec i s = .next (if s.bidx = 3 then { u with seq := .s6Classify } else u))

/-- 20_memory.md R67 (decision D17): in an exchange made to send, the byte received is written to no register and tested
by no rule; it shows only in the record of the exchange. -/
def Obligations.BytesReceivedWhileSendingAreDiscarded : Prop :=
  ∀ (s : State) (a b : Byte) (rest : List Byte), s.Live →
    (s.seq = .s1Clocks ∨ (s.seq.isTransaction = true ∧ (s.tph = .settle ∨ s.tph = .frame ∨ s.tph = .trail))) →
    (∃ tx, s.request = some (.xchg tx)) →
    ∃ t u, step { s with rx := a :: rest } = .next t ∧ step { s with rx := b :: rest } = .next u ∧
      t = { u with events := t.events } ∧ t.events.length = u.events.length

/-- 20_memory.md R63, 43_init_sequence.md R178, R180: at the start of the OCR read the four bytes become `ocr`, the first
the most significant, and bit 30 gives the card type. That the four bytes are read with the card deselected is decision
D18 (log 18); that the row does nothing at another point is the model's reading of R97 (log 11). -/
def Obligations.OcrReplyIsAssembledAndClassified : Prop :=
  ∀ (w : BitVec 32) (s : State),
    (s.seq = .s5Ocrbytes → s.bidx = 0 → exec (.ocr w) s = .next
      { s with ocr := w, bidx := 4, cardType := (if w.getLsbD 30 then .sdhc else .sdv2), cardTypeValid := true,
               cardState := .capacityKnown, seq := .s7Blklen, rxCount := s.rxCount + 4,
               events := .xchg 0xFF (w.extractLsb' 0 8) :: .xchg 0xFF (w.extractLsb' 8 8) ::
                 .xchg 0xFF (w.extractLsb' 16 8) :: .xchg 0xFF (w.extractLsb' 24 8) :: s.events }) ∧
    (s.seq ≠ .s5Ocrbytes ∨ s.bidx ≠ 0 → exec (.ocr w) s = .next s)

/-! ## Transactions -/

/-- 42_transaction.md R140, R148: a transaction started with `tph = T_NONE` completes, given that each call returns
(decision D24, log 5); the frame it sends, the poll it makes within `POLL_BOUND[index]`, its events in order, its result, and
that nothing else changes. -/
def Obligations.SendCommandEffect : Prop :=
  ∀ (index : Index) (argument : Arg) (checksum : Byte) (s : State), s.tph = .none →
    ∃ k r, PollOutcome s 7 (s.pollBoundOf index) k r ∧
      exec (.sendCommand index argument checksum) s =
        .next (afterTransaction s (frameBytes index argument checksum) (s.pollBoundOf index) k r)

/-- 43_init_sequence.md R165, R168, R171, R172, R176, R182: each command is one transaction with the bytes of 30_encoding.md
R94, and changes nothing but what a transaction changes; it completes, given that each call returns (decision D24, log 5).
Bytes 5 of the first two frames, the argument of `CMD8` and of `CMD41` are the spec's general knowledge (log 16); the six
index values and the zero arguments of `CMD55` and `CMD58` are decisions D6 and D11 (log 17); the checksum of the last four is
the operand (log 13). -/
def Obligations.CardCommandsAreTransactions : Prop :=
  ∀ s : State, s.tph = .none →
    (∃ k r, PollOutcome s 7 (s.pollBoundOf 0) k r ∧ exec .cmd0 s =
      .next (afterTransaction s #v[0x40, 0x00, 0x00, 0x00, 0x00, 0x95] (s.pollBoundOf 0) k r)) ∧
    (∃ k r, PollOutcome s 7 (s.pollBoundOf 8) k r ∧ exec .cmd8 s =
      .next (afterTransaction s #v[0x48, 0x00, 0x00, 0x01, 0xAA, 0x87] (s.pollBoundOf 8) k r)) ∧
    ∀ c : Byte,
      (∃ k r, PollOutcome s 7 (s.pollBoundOf 55) k r ∧ exec (.cmd55 c) s =
        .next (afterTransaction s #v[0x77, 0x00, 0x00, 0x00, 0x00, c] (s.pollBoundOf 55) k r)) ∧
      (∃ k r, PollOutcome s 7 (s.pollBoundOf 41) k r ∧ exec (.cmd41 c) s =
        .next (afterTransaction s #v[0x69, 0x40, 0x00, 0x00, 0x00, c] (s.pollBoundOf 41) k r)) ∧
      (∃ k r, PollOutcome s 7 (s.pollBoundOf 58) k r ∧ exec (.cmd58 c) s =
        .next (afterTransaction s #v[0x7A, 0x00, 0x00, 0x00, 0x00, c] (s.pollBoundOf 58) k r)) ∧
      (∃ k r, PollOutcome s 7 (s.pollBoundOf 16) k r ∧ exec (.cmd16 c) s =
        .next (afterTransaction s #v[0x50, 0x00, 0x00, 0x02, 0x00, c] (s.pollBoundOf 16) k r))

/-- 30_encoding.md R104: the pair is two complete transactions, `sendCommand(55, ARG_APP, c)` then
`sendCommand(41, ARG_OPCOND, c)`. R104 has `CRC_FILLER` for `c`; that it is one free operand is the table's pattern (log 13).
It completes, given that each call returns (decision D24, log 5). -/
def Obligations.Acmd41IsTwoTransactions : Prop :=
  ∀ (c : Byte) (s : State), s.tph = .none →
    ∃ u t, exec (.sendCommand 55 Config.argApp c) s = .next u ∧
      exec (.sendCommand 41 Config.argOpcond c) u = .next t ∧ exec (.acmd41 c) s = .next t ∧
      t.tph = .none ∧ t.sel = false

/-- 42_transaction.md R149, 20_memory.md R72, U5: inside a transaction no other can be issued; the model refuses it
(log 14). -/
def Obligations.NoTransactionInsideATransaction : Prop :=
  ∀ (i : Index) (a : Arg) (c : Byte) (s : State), s.tph ≠ .none →
    exec .cmd0 s = .refused .transactionInProgress ∧ exec .cmd8 s = .refused .transactionInProgress ∧
    exec (.cmd55 c) s = .refused .transactionInProgress ∧ exec (.cmd41 c) s = .refused .transactionInProgress ∧
    exec (.cmd58 c) s = .refused .transactionInProgress ∧ exec (.cmd16 c) s = .refused .transactionInProgress ∧
    exec (.acmd41 c) s = .refused .transactionInProgress ∧
    exec (.sendCommand i a c) s = .refused .transactionInProgress

/-- The sequencer's steps carry a transaction out: from the start of a transaction point, event by event, the block
reaches the state of the whole transaction followed by the check of that point (42_transaction.md R141 to R147). -/
def Obligations.StepsCarryOutTheTransaction : Prop :=
  ∀ (s : State) (c : Command), s.Live → s.tph = .none → pointCommand s.params s.seq = some c →
    ∃ n t, exec (.sendCommand c.index c.argument c.checksum) s = .next t ∧ core.run n s = .next (check t)

/-! ## The sequencer, point by point -/

/-- A step takes up the operation placed in the slot and is exactly its meaning; words that do not decode are refused by
name; with nothing placed the sequencer steps (the model's slot, log 1). -/
def Obligations.StepRunsThePlacedOperation : Prop :=
  ∀ s : State, s.rst = false →
    (∀ p i, s.slot = some p → decode p = .ok i → step s = exec i { s with slot := none }) ∧
    (∀ p e, s.slot = some p → decode p = .error e → step s = .refused (.undecodable e)) ∧
    (s.slot = none → step s = .next (tick s))

/-- 60_exceptions.md R221, 10_state.md R44 (decision D20): an accepted start initialises the per-run status again and
touches nothing else; without a start the block stays idle. -/
def Obligations.StartIsAcceptedWhenIdle : Prop :=
  ∀ s : State, s.rst = false → s.slot = none → s.seq = .idle →
    (s.start = true → step s = .next
      { s with busy := true, done := false, ok := false, errKind := .none, cardState := .uninitialized,
               cardTypeValid := false, warnBlklen := false, seq := .s1Speed, tph := .none }) ∧
    (s.start = false → step s = .next s)

/-- 60_exceptions.md R223 (decision D3): during a run `start` has no effect on any step, and the operation is not invoked
again. -/
def Obligations.StartIsIgnoredDuringARun : Prop :=
  ∀ (s : State) (b : Bool), s.seq ≠ .idle →
    exec .initializeCard s = .next s ∧
    (s.slot = none → s.rst = false →
      ∃ t, step s = .next t ∧ step { s with start := b } = .next { t with start := b })

/-- 43_init_sequence.md R161: the speed call at `S1_SPEED`, whatever the speed was, and that it is the first event of a
run. -/
def Obligations.SpeedIsSetFirst : Prop :=
  ∀ s : State, s.Live →
    (s.seq = .s1Speed →
      step s = .next { s with busSpeed := .init, seq := .s1Delay, events := .speedInit :: s.events }) ∧
    (s.seq = .idle → s.start = true →
      ∃ t u, step s = .next t ∧ t.seq = .s1Speed ∧ t.events = s.events ∧
        step t = .next u ∧ u.events = .speedInit :: s.events)

/-- 43_init_sequence.md R162: the delay call (its argument 100 is decision D14, log 17), after which the power-up clocks
begin. -/
def Obligations.PowerUpDelay : Prop :=
  ∀ s : State, s.Live → s.seq = .s1Delay →
    step s = .next { s with bidx := 0, seq := .s1Clocks, events := .delay 100 :: s.events }

/-- 43_init_sequence.md R163: exactly ten filler bytes, `bidx` counting 0 to 9, with the card deselected, whatever is
received; then step 2. -/
def Obligations.TenPowerUpClocks : Prop :=
  ∀ s : State, s.Live → s.Inv → s.seq = .s1Clocks → s.bidx = 0 →
    (∀ k < 10, ∃ t, core.run k s = .next t ∧ t.seq = .s1Clocks ∧ t.bidx = BitVec.ofNat 4 k ∧ t.sel = false ∧
      t.request = some (.xchg 0xFF)) ∧
    core.run 10 s = .next
      { s with bidx := 10, attempt := 0, seq := .s2Reset, rx := s.rx.drop 10, rxCount := s.rxCount + 10,
               events := (pollEvents s 0 10).reverse ++ s.events }

/-- 43_init_sequence.md R166 (the order of the tests is decision D15, log 17; the idle code `0x01` is general knowledge, D7,
log 16): the check that follows a `CMD0`
transaction, in the step of its release byte (log 2). -/
def Obligations.ResetCheck : Prop :=
  ∀ s : State, s.Live → s.seq = .s2Reset → s.tph = .trail →
    let u := { s with tph := .none, attempt := s.attempt + 1, rx := s.rx.drop 1, rxCount := s.rxCount + 1,
                      events := .xchg 0xFF (s.byteAt 0) :: s.events }
    step s = .next
      (if s.resp = ⟨false, 0x01⟩ then { u with cardState := .reset, seq := .s3Ifcond }
       else if u.attempt = 200 then
         { u with cardState := .failed, errKind := .resetFailed, ok := false, done := true, busy := false,
                  seq := .idle }
       else u)

/-- 43_init_sequence.md R169: the check of `CMD8`, and that after its failure no event follows until a new start. That the
check and the failure are part of the step of the release byte is the model's choice (log 2); the spec makes them internal
steps after it. -/
def Obligations.IfcondCheck : Prop :=
  ∀ s : State, s.Live → s.seq = .s3Ifcond → s.tph = .trail →
    let u := { s with tph := .none, rx := s.rx.drop 1, rxCount := s.rxCount + 1,
                      events := .xchg 0xFF (s.byteAt 0) :: s.events }
    let failed := { u with cardState := .failed, errKind := .unsupportedCard, ok := false, done := true,
                           busy := false, seq := .idle }
    step s = .next
      (if s.resp = ⟨false, Config.r1Idle⟩ then { u with cardState := .versionChecked, iter := 0, seq := .s4App }
       else failed) ∧
    (s.start = false → step failed = .next failed)

/-- 43_init_sequence.md R171 (decision D16, log 17): the response to `CMD55` changes nothing. That the point is left in the
step of the release byte is the model's choice (log 2). -/
def Obligations.AppResponseIsIgnored : Prop :=
  ∀ s : State, s.Live → s.seq = .s4App → s.tph = .trail →
    step s = .next { s with tph := .none, seq := .s4Opcond, rx := s.rx.drop 1, rxCount := s.rxCount + 1,
                            events := .xchg 0xFF (s.byteAt 0) :: s.events }

/-- 43_init_sequence.md R173 (decisions D15, D16, log 17): the check of `CMD41`, in the step of its release byte by the
model's choice (log 2). -/
def Obligations.OpcondCheck : Prop :=
  ∀ s : State, s.Live → s.seq = .s4Opcond → s.tph = .trail →
    let u := { s with tph := .none, iter := s.iter + 1, rx := s.rx.drop 1, rxCount := s.rxCount + 1,
                      events := .xchg 0xFF (s.byteAt 0) :: s.events }
    step s = .next
      (if s.resp = ⟨false, 0x00⟩ then { u with cardState := .voltageNegotiated, seq := .s5Ocrcmd }
       else if u.iter = 65535 then
         { u with cardState := .failed, errKind := .voltageNegotiationTimeout, ok := false, done := true,
                  busy := false, seq := .idle }
       else { u with seq := .s4App })

/-- 43_init_sequence.md R177: the check of `CMD58`. That the check and the failure are part of the step of the release byte
is the model's choice (log 2). -/
def Obligations.OcrCommandCheck : Prop :=
  ∀ s : State, s.Live → s.seq = .s5Ocrcmd → s.tph = .trail →
    let u := { s with tph := .none, rx := s.rx.drop 1, rxCount := s.rxCount + 1,
                      events := .xchg 0xFF (s.byteAt 0) :: s.events }
    step s = .next
      (if s.resp = ⟨false, 0x00⟩ then { u with bidx := 0, seq := .s5Ocrbytes }
       else { u with cardState := .failed, errKind := .ocrReadError, ok := false, done := true, busy := false,
                     seq := .idle })

/-- 43_init_sequence.md R178 (read with `sel` unchanged after the transaction: decision D18, log 18): four exchanges,
first byte most significant, nothing of the old `ocr` left. -/
def Obligations.FourOcrBytes : Prop :=
  ∀ s : State, s.Live → s.seq = .s5Ocrbytes → s.bidx = 0 →
    core.run 4 s = .next
      { s with ocr := s.byteAt 0 ++ s.byteAt 1 ++ s.byteAt 2 ++ s.byteAt 3, bidx := 4, seq := .s6Classify,
               rx := s.rx.drop 4, rxCount := s.rxCount + 4, events := (pollEvents s 0 4).reverse ++ s.events }

/-- 43_init_sequence.md R180: one internal step, no event; the card type is bit 30 of the OCR, that is bit 6 of its first
byte, and nothing else. -/
def Obligations.ClassifyByBit30 : Prop :=
  ∀ s : State, s.rst = false → s.slot = none → s.seq = .s6Classify →
    ∃ t, step s = .next t ∧
      t = { s with cardType := (if s.ocr.getLsbD 30 then .sdhc else .sdv2), cardTypeValid := true,
                   cardState := .capacityKnown, seq := .s7Blklen } ∧
      (t.cardType = .sdhc ↔ s.ocr.extractLsb' 24 8 &&& 0x40#8 ≠ 0)

/-- 43_init_sequence.md R183: a `CMD16` response other than `R1_READY` is a warning and the run goes on. That the check is
part of the step of the release byte is the model's choice (log 2), and so is the parameter that says whether the diagnostic
event is there (log 19). -/
def Obligations.BlockLengthFailureIsAWarning : Prop :=
  ∀ s : State, s.Live → s.seq = .s7Blklen → s.tph = .trail →
    let u := { s with tph := .none, cardState := .blockLengthSet, seq := .s8Speed, rx := s.rx.drop 1,
                      rxCount := s.rxCount + 1, events := .xchg 0xFF (s.byteAt 0) :: s.events }
    step s = .next
      (if s.resp = ⟨false, 0x00⟩ then u
       else if s.params.diagSink then { u with warnBlklen := true, events := .diag 1 :: u.events }
       else { u with warnBlklen := true })

/-- 43_init_sequence.md R185: the speed call of step 8, made with the card deselected and no exchange in progress. -/
def Obligations.OperationalSpeedAtTheEnd : Prop :=
  ∀ s : State, s.Live → s.Inv → s.seq = .s8Speed →
    s.sel = false ∧ s.tph = .none ∧
    step s = .next { s with busSpeed := .operational, seq := .s8Desel, events := .speedOper :: s.events }

/-- 43_init_sequence.md R186: the deselect call that ends a run, made although the card is deselected, the registers it
leaves and the result the host reads (the end is part of the step of the call, log 2). -/
def Obligations.SuccessfulRunEnds : Prop :=
  ∀ s : State, s.Live → s.Inv → s.seq = .s8Desel →
    s.sel = false ∧
    ∃ t, step s = .next t ∧
      t = { s with sel := false, cardState := .ready, ok := true, done := true, busy := false, seq := .idle,
                   events := .selDeassert :: s.events } ∧
      t.busSpeed = .operational ∧ t.result = some (.ok s.cardType)

/-- 60_exceptions.md R210, R211: what a failure leaves, and that it comes only after a complete transaction. In the spec
`raise` is an internal step that emits no event, at `tph = T_NONE`; that it is part of the step of the release byte, which
starts in `T_TRAIL` and emits that exchange, is the model's choice (log 2). The speed and the select record after a failure are
decision D25. -/
def Obligations.FailureIsPrecise : Prop :=
  ∀ s t : State, s.Inv → s.slot = none → s.rst = false → step s = .next t →
    s.cardState ≠ .failed → t.cardState = .failed →
      s.tph = .trail ∧ t.tph = .none ∧ t.sel = false ∧ t.busSpeed = .init ∧ t.seq = .idle ∧ t.done = true ∧
      t.ok = false ∧ t.busy = false ∧ t.errKind ≠ .none ∧ t.resp = s.resp ∧
      t.events = .xchg 0xFF (s.byteAt 0) :: s.events

/-- 70_reset_and_hazards.md R240 to R242 with the values of 10_state.md R43 (decision D21, log 8): reset in any state, even
with an operation placed, gives every register its reset value and emits no event. That the inputs and the record stay
is the model's choice (log 20). -/
def Obligations.ResetGivesTheResetValues : Prop :=
  ∀ s : State, s.rst = true → step s = .next
    { s with frame := #v[0, 0, 0, 0, 0, 0], resp := ⟨true, 0xFF⟩, ocr := 0, attempt := 0, iter := 0, polls := 0,
             bound := 0, bidx := 0, seq := .idle, tph := .none, cardState := .uninitialized, errKind := .none,
             cardType := .sdv2, cardTypeValid := false, busSpeed := .init, sel := false, busy := false,
             done := false, ok := false, warnBlklen := false, slot := none }

/-- 70_reset_and_hazards.md R249, U4 (decision D24, log 5): while the call raised is not completed the block stays where it
is and reports nothing. -/
def Obligations.BlockWaitsForItsCollaborator : Prop :=
  ∀ s : State, s.rst = false → s.slot = none → s.request ≠ none → s.ack = false → step s = .next s

/-! ## Whole-machine rules -/

/-- 10_state.md R45 (the spec marks it derived) with R22, R31, R34: every step, of any kind and from any state that meets
the invariant, keeps it. -/
def Obligations.EveryStepKeepsTheInvariant : Prop :=
  ∀ s t : State, s.Inv → step s = .next t → t.Inv

/-- The reset state meets the invariant (10_state.md R43, R45). -/
def Obligations.ResetMeetsTheInvariant : Prop := State.reset.Inv

/-- 60_exceptions.md R222 (decision D3): in every state that meets the invariant, the host reads no result before the end
of a run; at the end of a run that succeeded it reads a card type that means something, and after a failure one of the
four error kinds. -/
def Obligations.HostReadsTheResult : Prop :=
  ∀ s : State, s.Inv →
    (s.done = false → s.result = none ∧ s.cardState ≠ .ready ∧ s.cardState ≠ .failed) ∧
    (s.done = true → s.ok = true →
      s.result = some (.ok s.cardType) ∧ s.cardTypeValid = true ∧ s.cardState = .ready ∧ s.busSpeed = .operational) ∧
    (s.done = true → s.ok = false →
      ∃ k, k ≠ .none ∧ s.result = some (.error k) ∧ s.errKind = k ∧ s.cardState = .failed)

/-- 10_state.md R34: within a run the Card State only moves forward. -/
def Obligations.CardStateOnlyAdvances : Prop :=
  ∀ s t : State, s.Inv → s.rst = false → s.seq ≠ .idle → step s = .next t → s.cardState.rank ≤ t.cardState.rank

/-- 00_scope.md R7, 10_state.md R20: no step writes a parameter or an input level (held in State by the model, logs 4
to 6). -/
def Obligations.ParametersAndInputsAreNotWritten : Prop :=
  ∀ s t : State, step s = .next t →
    t.params = s.params ∧ t.start = s.start ∧ t.rst = s.rst ∧ t.ack = s.ack

/-- 00_scope.md R11, 20_memory.md R71, 60_exceptions.md R229: a step of the sequencer completes at most one call, and it
is the one the state raised; a diagnostic strobe may stand on top of it (R226, log 19). -/
def Obligations.OneStepCompletesTheCallRaised : Prop :=
  ∀ s t : State, s.slot = none → s.rst = false → step s = .next t →
    (s.request = none → t.events = s.events) ∧
    (∀ r, s.request = some r → s.ack = true →
      ∃ e, r.completedBy e = true ∧ (t.events = e :: s.events ∨
        (s.seq = .s7Blklen ∧ s.tph = .trail ∧ t.events = .diag Config.wBlklen :: e :: s.events)))

/-- 42_transaction.md R150, 10_state.md R37: the bus speed changes only at `S1_SPEED`, to `Init`, and at `S8_SPEED`, to
`Operational`. -/
def Obligations.SpeedChangesOnlyAtItsTwoPoints : Prop :=
  ∀ s t : State, s.slot = none → s.rst = false → step s = .next t → t.busSpeed ≠ s.busSpeed →
    (s.seq = .s1Speed ∧ t.busSpeed = .init) ∨ (s.seq = .s8Speed ∧ t.busSpeed = .operational)

/-- 10_state.md R38, 42_transaction.md R151: the select record changes only by the two select calls. -/
def Obligations.SelectChangesOnlyByItsCalls : Prop :=
  ∀ s t : State, s.slot = none → s.rst = false → step s = .next t → t.sel ≠ s.sel →
    (t.sel = true ∧ t.events = .selAssert :: s.events) ∨ (t.sel = false ∧ t.events = .selDeassert :: s.events)

/-- 10_state.md R21, 40_framer.md R124: as a transaction starts the frame of the command of that point is written, and the
frame changes at no other step of the sequencer. -/
def Obligations.FrameIsWrittenOncePerTransaction : Prop :=
  ∀ s t : State, s.slot = none → s.rst = false → step s = .next t →
    (∀ c, s.tph = .none → pointCommand s.params s.seq = some c → t.frame = c.frame ∧ t.tph = .assert) ∧
    (t.frame ≠ s.frame →
      s.tph = .none ∧ t.tph = .assert ∧ ∃ c, pointCommand s.params s.seq = some c ∧ t.frame = c.frame)

/-- 20_memory.md R68 (the spec marks it derived, from 10_state.md R45 (b) and 42_transaction.md R140; the OCR bytes by
decision D18): which exchanges are made with the card selected. -/
def Obligations.SelectDuringExchanges : Prop :=
  ∀ (s : State) (tx : Byte), s.Inv → s.request = some (.xchg tx) →
    (s.sel = true ↔ s.tph = .settle ∨ s.tph = .frame ∨ s.tph = .poll) ∧
    (s.seq = .s1Clocks ∨ s.seq = .s5Ocrbytes → s.sel = false) ∧
    (tx ≠ 0xFF → s.tph = .frame)

/-! ## The whole operation -/

/-- 43_init_sequence.md R160, R189; 60_exceptions.md R211, R222 (each call returns: decision D24, log 5): invoked in an
idle block, the operation completes, and leaves either `Ok` with the postcondition of R186 or one of the four errors
with that of R211. -/
def Obligations.InitializeCardCompletes : Prop :=
  ∀ s : State, s.seq = .idle →
    ∃ t, exec .initializeCard s = .next t ∧
      t.seq = .idle ∧ t.tph = .none ∧ t.busy = false ∧ t.done = true ∧ t.sel = false ∧
      t.attempt.toNat ≤ 200 ∧ t.params = s.params ∧
      ((t.ok = true ∧ t.cardState = .ready ∧ t.errKind = .none ∧ t.cardTypeValid = true ∧
          t.busSpeed = .operational ∧ t.cardType = (if t.ocr.getLsbD 30 then .sdhc else .sdv2)) ∨
        (t.ok = false ∧ t.cardState = .failed ∧ t.errKind ≠ .none ∧ t.cardTypeValid = false ∧
          t.busSpeed = .init ∧ t.warnBlklen = false))

/-- The sequencer, event by event, carries out the whole operation: started in an idle block it reaches, in some number
of steps, the state `initializeCard` gives (43_init_sequence.md R160 against R161 to R187; each call returns: D24). -/
def Obligations.StepsCarryOutInitializeCard : Prop :=
  ∀ s : State, s.Live → s.seq = .idle → s.start = true →
    ∃ n t, exec .initializeCard s = .next t ∧ core.run n s = .next t

/-- 70_reset_and_hazards.md R244 (the spec marks it derived, from 10_state.md R28, R44): a run depends on the parameters and on the bytes the card
returns, and on nothing an earlier run or reset left. Both runs complete, given that each call returns (decision D24,
log 5). -/
def Obligations.ARunForgetsThePast : Prop :=
  ∀ s₁ s₂ : State, s₁.seq = .idle → s₂.seq = .idle → s₁.params = s₂.params → s₁.rx = s₂.rx →
    s₁.rxCount = s₂.rxCount →
    ∃ t₁ t₂, exec .initializeCard s₁ = .next t₁ ∧ exec .initializeCard s₂ = .next t₂ ∧ SameRun s₁ t₁ s₂ t₂

/-- 95_test_vectors.md V3; 43_init_sequence.md R166, R188 (the counting of the bound is decision D15, C2): with a card that
only ever answers `0xFF`, `ResetFailed` after exactly 200 `CMD0` frames and no other: 200 transactions, 200 bytes `0x40`, 200
bytes `0x95` (`CRC_CMD0`, log 16), and no first byte of another command's frame. Each call returns (decision D24, log 5). -/
def Obligations.SilentCardFailsAfter200Resets : Prop :=
  ∀ s : State, s.seq = .idle → (∀ b ∈ s.rx, b = 0xFF) → 10 + 200 * (8 + s.pollBoundOf 0) ≤ s.rx.length →
    ∃ t es, exec .initializeCard s = .next t ∧ t.cardState = .failed ∧ t.errKind = .resetFailed ∧
      t.attempt = 200 ∧ t.resp = ⟨true, 0xFF⟩ ∧ t.events = es ++ s.events ∧
      es.countP Event.isXchg = 10 + 200 * (8 + s.pollBoundOf 0) ∧ es.countP (Event.sent 0x40) = 200 ∧
      es.countP (Event.sent 0x95) = 200 ∧
      (∀ b ∈ [0x48#8, 0x77#8, 0x69#8, 0x7A#8, 0x50#8], es.countP (Event.sent b) = 0) ∧
      es.count .selAssert = 200 ∧ es.count .selDeassert = 200 ∧ es.count .speedOper = 0

/-- 95_test_vectors.md V4, V5 in general; 43_init_sequence.md R160, R166, R169, R171, R173, R177, R178, R180, R183, R186: a card
that answers each command as its step asks, within the bounds and with any latency its poll bounds allow, is initialised: the
result, the registers it leaves and that exactly the bytes of the run are consumed. The decisions it rests on: the idle code
D7 (log 16), the counting of the bounds and the order of the tests D15, the ignored and continuing responses D16 (log 17), the
OCR read D18 (log 18); each call returns (decision D24, log 5). -/
def Obligations.AnsweredCardIsInitialized : Prop :=
  ∀ (s : State) (c : RunScript) (final : Resp) (rest : List Byte), s.seq = .idle → c.Succeeds s final →
    s.rx = c.bytes ++ rest →
    ∃ t, exec .initializeCard s = .next t ∧
      t.result = some (.ok (if c.ocr.getLsbD 30 then .sdhc else .sdv2)) ∧ t.cardState = .ready ∧
      t.cardTypeValid = true ∧ t.busSpeed = .operational ∧ t.sel = false ∧ t.seq = .idle ∧ t.busy = false ∧
      t.ocr = c.ocr ∧ t.attempt = BitVec.ofNat 8 (c.resets.length + 1) ∧
      t.iter = BitVec.ofNat 16 (c.pairs.length + 1) ∧ (t.warnBlklen = true ↔ final ≠ ⟨false, 0x00⟩) ∧
      t.rx = rest ∧ t.rxCount = s.rxCount + c.bytes.length

/-- 95_test_vectors.md V6; 43_init_sequence.md R166, R169: once `CMD0` is answered, a `CMD8` result other than the idle code,
NoResponse included, ends the run with `UnsupportedCard`, and no frame of another command follows. It rests on D7 and `CRC_CMD8`
(log 16), D15 (log 17) and D24 (log 5). -/
def Obligations.UnsupportedCardEndsTheRun : Prop :=
  ∀ (s : State) (clocks reset ifcond rest : List Byte) (resets : List (List Byte)) (r : Resp), s.seq = .idle →
    clocks.length = 10 → resets.length < 200 →
    (∀ l ∈ resets, ∃ r', r' ≠ ⟨false, 0x01⟩ ∧ Answers (s.pollBoundOf 0) r' l) →
    Answers (s.pollBoundOf 0) ⟨false, 0x01⟩ reset → Answers (s.pollBoundOf 8) r ifcond → r ≠ ⟨false, 0x01⟩ →
    s.rx = clocks ++ (resets.flatten ++ (reset ++ (ifcond ++ rest))) →
    ∃ t es, exec .initializeCard s = .next t ∧ t.result = some (.error .unsupportedCard) ∧ t.cardState = .failed ∧
      t.resp = r ∧ t.rx = rest ∧ t.events = es ++ s.events ∧ es.count .selAssert = resets.length + 2 ∧
      es.countP (Event.sent 0x40) = resets.length + 1 ∧ es.countP (Event.sent 0x48) = 1 ∧
      ∀ b ∈ [0x77#8, 0x69#8, 0x7A#8, 0x50#8], es.countP (Event.sent b) = 0
end

