-- ==== Sys2Proof/Laws/Bytes.lean ====
section
/-!
SUPPORT. Bytes and words: the byte order of arguments and of the OCR (20_memory.md R62, R63), the OCR shift register
(43_init_sequence.md R178) and the start pattern of a frame (30_encoding.md R92).
-/

namespace Sys2Proof

/-- Cutting a word into bytes and joining them again. -/
theorem ofBytes32_extract (w : BitVec 32) :
    ofBytes32 (w.extractLsb' 24 8) (w.extractLsb' 16 8) (w.extractLsb' 8 8) (w.extractLsb' 0 8) = w := by
  apply BitVec.eq_of_getLsbD_eq
  intro i hi
  simp only [ofBytes32, BitVec.getLsbD_append, BitVec.getLsbD_extractLsb']
  interval_cases i <;> simp

/-- Joining four bytes and cutting them out again. -/
theorem extract_ofBytes32 (b0 b1 b2 b3 : Byte) :
    (ofBytes32 b0 b1 b2 b3).extractLsb' 24 8 = b0 ∧ (ofBytes32 b0 b1 b2 b3).extractLsb' 16 8 = b1 ∧
    (ofBytes32 b0 b1 b2 b3).extractLsb' 8 8 = b2 ∧ (ofBytes32 b0 b1 b2 b3).extractLsb' 0 8 = b3 := by
  refine ⟨?_, ?_, ?_, ?_⟩ <;>
  · apply BitVec.eq_of_getLsbD_eq
    intro i hi
    simp only [ofBytes32, BitVec.getLsbD_append, BitVec.getLsbD_extractLsb']
    interval_cases i <;> simp

/-- Four bytes shifted in from the right leave nothing of the old value. -/
theorem shiftIn_ofBytes32 (o : BitVec 32) (b0 b1 b2 b3 : Byte) :
    ((((o <<< 8 ||| b0.setWidth 32) <<< 8 ||| b1.setWidth 32) <<< 8 ||| b2.setWidth 32) <<< 8 ||| b3.setWidth 32)
      = ofBytes32 b0 b1 b2 b3 := by
  apply BitVec.eq_of_getLsbD_eq
  intro i hi
  simp only [ofBytes32, BitVec.getLsbD_append, BitVec.getLsbD_or, BitVec.getLsbD_shiftLeft, BitVec.getLsbD_setWidth]
  interval_cases i <;> simp

/-- The first byte of a frame has the start pattern, and the index comes back from it. -/
theorem startByte_fields (i : Index) :
    (Config.startBits ||| i.setWidth 8).extractLsb' 6 2 = 1 ∧ (Config.startBits ||| i.setWidth 8).setWidth 6 = i := by
  revert i; decide

/-- A byte with the start pattern is the first byte of its index's frames. -/
theorem startByte_of_pattern (b : Byte) (h : b.extractLsb' 6 2 = 1) :
    Config.startBits ||| (b.setWidth 6).setWidth 8 = b := by
  revert b; decide

end Sys2Proof
end

