-- ==== Sys2Proof/Laws/State.lean ====
section
/-!
SUPPORT. What each named update of Machine/Ops.lean does to each field of State: one lemma per update and field, so that
no later proof unfolds a record update. The proofs cite these through simp.
-/

namespace Sys2Proof.Machine

/-! ### emit -/

@[simp] theorem State.emit_frame (e : Event) (s : State) : (s.emit e).frame = s.frame := rfl
@[simp] theorem State.emit_resp (e : Event) (s : State) : (s.emit e).resp = s.resp := rfl
@[simp] theorem State.emit_ocr (e : Event) (s : State) : (s.emit e).ocr = s.ocr := rfl
@[simp] theorem State.emit_attempt (e : Event) (s : State) : (s.emit e).attempt = s.attempt := rfl
@[simp] theorem State.emit_iter (e : Event) (s : State) : (s.emit e).iter = s.iter := rfl
@[simp] theorem State.emit_polls (e : Event) (s : State) : (s.emit e).polls = s.polls := rfl
@[simp] theorem State.emit_bound (e : Event) (s : State) : (s.emit e).bound = s.bound := rfl
@[simp] theorem State.emit_bidx (e : Event) (s : State) : (s.emit e).bidx = s.bidx := rfl
@[simp] theorem State.emit_seq (e : Event) (s : State) : (s.emit e).seq = s.seq := rfl
@[simp] theorem State.emit_tph (e : Event) (s : State) : (s.emit e).tph = s.tph := rfl
@[simp] theorem State.emit_cardState (e : Event) (s : State) : (s.emit e).cardState = s.cardState := rfl
@[simp] theorem State.emit_errKind (e : Event) (s : State) : (s.emit e).errKind = s.errKind := rfl
@[simp] theorem State.emit_cardType (e : Event) (s : State) : (s.emit e).cardType = s.cardType := rfl
@[simp] theorem State.emit_cardTypeValid (e : Event) (s : State) : (s.emit e).cardTypeValid = s.cardTypeValid := rfl
@[simp] theorem State.emit_busSpeed (e : Event) (s : State) : (s.emit e).busSpeed = s.busSpeed := rfl
@[simp] theorem State.emit_sel (e : Event) (s : State) : (s.emit e).sel = s.sel := rfl
@[simp] theorem State.emit_busy (e : Event) (s : State) : (s.emit e).busy = s.busy := rfl
@[simp] theorem State.emit_done (e : Event) (s : State) : (s.emit e).done = s.done := rfl
@[simp] theorem State.emit_ok (e : Event) (s : State) : (s.emit e).ok = s.ok := rfl
@[simp] theorem State.emit_warnBlklen (e : Event) (s : State) : (s.emit e).warnBlklen = s.warnBlklen := rfl
@[simp] theorem State.emit_start (e : Event) (s : State) : (s.emit e).start = s.start := rfl
@[simp] theorem State.emit_rst (e : Event) (s : State) : (s.emit e).rst = s.rst := rfl
@[simp] theorem State.emit_ack (e : Event) (s : State) : (s.emit e).ack = s.ack := rfl
@[simp] theorem State.emit_rx (e : Event) (s : State) : (s.emit e).rx = s.rx := rfl
@[simp] theorem State.emit_rxCount (e : Event) (s : State) : (s.emit e).rxCount = s.rxCount := rfl
@[simp] theorem State.emit_params (e : Event) (s : State) : (s.emit e).params = s.params := rfl
@[simp] theorem State.emit_events (e : Event) (s : State) : (s.emit e).events = e :: s.events := rfl
@[simp] theorem State.emit_slot (e : Event) (s : State) : (s.emit e).slot = s.slot := rfl

/-! ### xchg -/

@[simp] theorem State.xchg_frame (out : Byte) (s : State) : (s.xchg out).frame = s.frame := rfl
@[simp] theorem State.xchg_resp (out : Byte) (s : State) : (s.xchg out).resp = s.resp := rfl
@[simp] theorem State.xchg_ocr (out : Byte) (s : State) : (s.xchg out).ocr = s.ocr := rfl
@[simp] theorem State.xchg_attempt (out : Byte) (s : State) : (s.xchg out).attempt = s.attempt := rfl
@[simp] theorem State.xchg_iter (out : Byte) (s : State) : (s.xchg out).iter = s.iter := rfl
@[simp] theorem State.xchg_polls (out : Byte) (s : State) : (s.xchg out).polls = s.polls := rfl
@[simp] theorem State.xchg_bound (out : Byte) (s : State) : (s.xchg out).bound = s.bound := rfl
@[simp] theorem State.xchg_bidx (out : Byte) (s : State) : (s.xchg out).bidx = s.bidx := rfl
@[simp] theorem State.xchg_seq (out : Byte) (s : State) : (s.xchg out).seq = s.seq := rfl
@[simp] theorem State.xchg_tph (out : Byte) (s : State) : (s.xchg out).tph = s.tph := rfl
@[simp] theorem State.xchg_cardState (out : Byte) (s : State) : (s.xchg out).cardState = s.cardState := rfl
@[simp] theorem State.xchg_errKind (out : Byte) (s : State) : (s.xchg out).errKind = s.errKind := rfl
@[simp] theorem State.xchg_cardType (out : Byte) (s : State) : (s.xchg out).cardType = s.cardType := rfl
@[simp] theorem State.xchg_cardTypeValid (out : Byte) (s : State) : (s.xchg out).cardTypeValid = s.cardTypeValid := rfl
@[simp] theorem State.xchg_busSpeed (out : Byte) (s : State) : (s.xchg out).busSpeed = s.busSpeed := rfl
@[simp] theorem State.xchg_sel (out : Byte) (s : State) : (s.xchg out).sel = s.sel := rfl
@[simp] theorem State.xchg_busy (out : Byte) (s : State) : (s.xchg out).busy = s.busy := rfl
@[simp] theorem State.xchg_done (out : Byte) (s : State) : (s.xchg out).done = s.done := rfl
@[simp] theorem State.xchg_ok (out : Byte) (s : State) : (s.xchg out).ok = s.ok := rfl
@[simp] theorem State.xchg_warnBlklen (out : Byte) (s : State) : (s.xchg out).warnBlklen = s.warnBlklen := rfl
@[simp] theorem State.xchg_start (out : Byte) (s : State) : (s.xchg out).start = s.start := rfl
@[simp] theorem State.xchg_rst (out : Byte) (s : State) : (s.xchg out).rst = s.rst := rfl
@[simp] theorem State.xchg_ack (out : Byte) (s : State) : (s.xchg out).ack = s.ack := rfl
@[simp] theorem State.xchg_rx (out : Byte) (s : State) : (s.xchg out).rx = s.rx.tail := rfl
@[simp] theorem State.xchg_rxCount (out : Byte) (s : State) : (s.xchg out).rxCount = s.rxCount + 1 := rfl
@[simp] theorem State.xchg_params (out : Byte) (s : State) : (s.xchg out).params = s.params := rfl
@[simp] theorem State.xchg_events (out : Byte) (s : State) : (s.xchg out).events = .xchg out s.nextByte :: s.events := rfl
@[simp] theorem State.xchg_slot (out : Byte) (s : State) : (s.xchg out).slot = s.slot := rfl

/-! ### offer -/

@[simp] theorem State.offer_frame (bytes : List Byte) (s : State) : (s.offer bytes).frame = s.frame := rfl
@[simp] theorem State.offer_resp (bytes : List Byte) (s : State) : (s.offer bytes).resp = s.resp := rfl
@[simp] theorem State.offer_ocr (bytes : List Byte) (s : State) : (s.offer bytes).ocr = s.ocr := rfl
@[simp] theorem State.offer_attempt (bytes : List Byte) (s : State) : (s.offer bytes).attempt = s.attempt := rfl
@[simp] theorem State.offer_iter (bytes : List Byte) (s : State) : (s.offer bytes).iter = s.iter := rfl
@[simp] theorem State.offer_polls (bytes : List Byte) (s : State) : (s.offer bytes).polls = s.polls := rfl
@[simp] theorem State.offer_bound (bytes : List Byte) (s : State) : (s.offer bytes).bound = s.bound := rfl
@[simp] theorem State.offer_bidx (bytes : List Byte) (s : State) : (s.offer bytes).bidx = s.bidx := rfl
@[simp] theorem State.offer_seq (bytes : List Byte) (s : State) : (s.offer bytes).seq = s.seq := rfl
@[simp] theorem State.offer_tph (bytes : List Byte) (s : State) : (s.offer bytes).tph = s.tph := rfl
@[simp] theorem State.offer_cardState (bytes : List Byte) (s : State) : (s.offer bytes).cardState = s.cardState := rfl
@[simp] theorem State.offer_errKind (bytes : List Byte) (s : State) : (s.offer bytes).errKind = s.errKind := rfl
@[simp] theorem State.offer_cardType (bytes : List Byte) (s : State) : (s.offer bytes).cardType = s.cardType := rfl
@[simp] theorem State.offer_cardTypeValid (bytes : List Byte) (s : State) : (s.offer bytes).cardTypeValid = s.cardTypeValid := rfl
@[simp] theorem State.offer_busSpeed (bytes : List Byte) (s : State) : (s.offer bytes).busSpeed = s.busSpeed := rfl
@[simp] theorem State.offer_sel (bytes : List Byte) (s : State) : (s.offer bytes).sel = s.sel := rfl
@[simp] theorem State.offer_busy (bytes : List Byte) (s : State) : (s.offer bytes).busy = s.busy := rfl
@[simp] theorem State.offer_done (bytes : List Byte) (s : State) : (s.offer bytes).done = s.done := rfl
@[simp] theorem State.offer_ok (bytes : List Byte) (s : State) : (s.offer bytes).ok = s.ok := rfl
@[simp] theorem State.offer_warnBlklen (bytes : List Byte) (s : State) : (s.offer bytes).warnBlklen = s.warnBlklen := rfl
@[simp] theorem State.offer_start (bytes : List Byte) (s : State) : (s.offer bytes).start = s.start := rfl
@[simp] theorem State.offer_rst (bytes : List Byte) (s : State) : (s.offer bytes).rst = s.rst := rfl
@[simp] theorem State.offer_ack (bytes : List Byte) (s : State) : (s.offer bytes).ack = s.ack := rfl
@[simp] theorem State.offer_rx (bytes : List Byte) (s : State) : (s.offer bytes).rx = bytes ++ s.rx := rfl
@[simp] theorem State.offer_rxCount (bytes : List Byte) (s : State) : (s.offer bytes).rxCount = s.rxCount := rfl
@[simp] theorem State.offer_params (bytes : List Byte) (s : State) : (s.offer bytes).params = s.params := rfl
@[simp] theorem State.offer_events (bytes : List Byte) (s : State) : (s.offer bytes).events = s.events := rfl
@[simp] theorem State.offer_slot (bytes : List Byte) (s : State) : (s.offer bytes).slot = s.slot := rfl

/-! ### selAssert -/

@[simp] theorem State.selAssert_frame (s : State) : (s.selAssert).frame = s.frame := rfl
@[simp] theorem State.selAssert_resp (s : State) : (s.selAssert).resp = s.resp := rfl
@[simp] theorem State.selAssert_ocr (s : State) : (s.selAssert).ocr = s.ocr := rfl
@[simp] theorem State.selAssert_attempt (s : State) : (s.selAssert).attempt = s.attempt := rfl
@[simp] theorem State.selAssert_iter (s : State) : (s.selAssert).iter = s.iter := rfl
@[simp] theorem State.selAssert_polls (s : State) : (s.selAssert).polls = s.polls := rfl
@[simp] theorem State.selAssert_bound (s : State) : (s.selAssert).bound = s.bound := rfl
@[simp] theorem State.selAssert_bidx (s : State) : (s.selAssert).bidx = s.bidx := rfl
@[simp] theorem State.selAssert_seq (s : State) : (s.selAssert).seq = s.seq := rfl
@[simp] theorem State.selAssert_tph (s : State) : (s.selAssert).tph = s.tph := rfl
@[simp] theorem State.selAssert_cardState (s : State) : (s.selAssert).cardState = s.cardState := rfl
@[simp] theorem State.selAssert_errKind (s : State) : (s.selAssert).errKind = s.errKind := rfl
@[simp] theorem State.selAssert_cardType (s : State) : (s.selAssert).cardType = s.cardType := rfl
@[simp] theorem State.selAssert_cardTypeValid (s : State) : (s.selAssert).cardTypeValid = s.cardTypeValid := rfl
@[simp] theorem State.selAssert_busSpeed (s : State) : (s.selAssert).busSpeed = s.busSpeed := rfl
@[simp] theorem State.selAssert_sel (s : State) : (s.selAssert).sel = true := rfl
@[simp] theorem State.selAssert_busy (s : State) : (s.selAssert).busy = s.busy := rfl
@[simp] theorem State.selAssert_done (s : State) : (s.selAssert).done = s.done := rfl
@[simp] theorem State.selAssert_ok (s : State) : (s.selAssert).ok = s.ok := rfl
@[simp] theorem State.selAssert_warnBlklen (s : State) : (s.selAssert).warnBlklen = s.warnBlklen := rfl
@[simp] theorem State.selAssert_start (s : State) : (s.selAssert).start = s.start := rfl
@[simp] theorem State.selAssert_rst (s : State) : (s.selAssert).rst = s.rst := rfl
@[simp] theorem State.selAssert_ack (s : State) : (s.selAssert).ack = s.ack := rfl
@[simp] theorem State.selAssert_rx (s : State) : (s.selAssert).rx = s.rx := rfl
@[simp] theorem State.selAssert_rxCount (s : State) : (s.selAssert).rxCount = s.rxCount := rfl
@[simp] theorem State.selAssert_params (s : State) : (s.selAssert).params = s.params := rfl
@[simp] theorem State.selAssert_events (s : State) : (s.selAssert).events = .selAssert :: s.events := rfl
@[simp] theorem State.selAssert_slot (s : State) : (s.selAssert).slot = s.slot := rfl

/-! ### selDeassert -/

@[simp] theorem State.selDeassert_frame (s : State) : (s.selDeassert).frame = s.frame := rfl
@[simp] theorem State.selDeassert_resp (s : State) : (s.selDeassert).resp = s.resp := rfl
@[simp] theorem State.selDeassert_ocr (s : State) : (s.selDeassert).ocr = s.ocr := rfl
@[simp] theorem State.selDeassert_attempt (s : State) : (s.selDeassert).attempt = s.attempt := rfl
@[simp] theorem State.selDeassert_iter (s : State) : (s.selDeassert).iter = s.iter := rfl
@[simp] theorem State.selDeassert_polls (s : State) : (s.selDeassert).polls = s.polls := rfl
@[simp] theorem State.selDeassert_bound (s : State) : (s.selDeassert).bound = s.bound := rfl
@[simp] theorem State.selDeassert_bidx (s : State) : (s.selDeassert).bidx = s.bidx := rfl
@[simp] theorem State.selDeassert_seq (s : State) : (s.selDeassert).seq = s.seq := rfl
@[simp] theorem State.selDeassert_tph (s : State) : (s.selDeassert).tph = s.tph := rfl
@[simp] theorem State.selDeassert_cardState (s : State) : (s.selDeassert).cardState = s.cardState := rfl
@[simp] theorem State.selDeassert_errKind (s : State) : (s.selDeassert).errKind = s.errKind := rfl
@[simp] theorem State.selDeassert_cardType (s : State) : (s.selDeassert).cardType = s.cardType := rfl
@[simp] theorem State.selDeassert_cardTypeValid (s : State) : (s.selDeassert).cardTypeValid = s.cardTypeValid := rfl
@[simp] theorem State.selDeassert_busSpeed (s : State) : (s.selDeassert).busSpeed = s.busSpeed := rfl
@[simp] theorem State.selDeassert_sel (s : State) : (s.selDeassert).sel = false := rfl
@[simp] theorem State.selDeassert_busy (s : State) : (s.selDeassert).busy = s.busy := rfl
@[simp] theorem State.selDeassert_done (s : State) : (s.selDeassert).done = s.done := rfl
@[simp] theorem State.selDeassert_ok (s : State) : (s.selDeassert).ok = s.ok := rfl
@[simp] theorem State.selDeassert_warnBlklen (s : State) : (s.selDeassert).warnBlklen = s.warnBlklen := rfl
@[simp] theorem State.selDeassert_start (s : State) : (s.selDeassert).start = s.start := rfl
@[simp] theorem State.selDeassert_rst (s : State) : (s.selDeassert).rst = s.rst := rfl
@[simp] theorem State.selDeassert_ack (s : State) : (s.selDeassert).ack = s.ack := rfl
@[simp] theorem State.selDeassert_rx (s : State) : (s.selDeassert).rx = s.rx := rfl
@[simp] theorem State.selDeassert_rxCount (s : State) : (s.selDeassert).rxCount = s.rxCount := rfl
@[simp] theorem State.selDeassert_params (s : State) : (s.selDeassert).params = s.params := rfl
@[simp] theorem State.selDeassert_events (s : State) : (s.selDeassert).events = .selDeassert :: s.events := rfl
@[simp] theorem State.selDeassert_slot (s : State) : (s.selDeassert).slot = s.slot := rfl

/-! ### speedInit -/

@[simp] theorem State.speedInit_frame (s : State) : (s.speedInit).frame = s.frame := rfl
@[simp] theorem State.speedInit_resp (s : State) : (s.speedInit).resp = s.resp := rfl
@[simp] theorem State.speedInit_ocr (s : State) : (s.speedInit).ocr = s.ocr := rfl
@[simp] theorem State.speedInit_attempt (s : State) : (s.speedInit).attempt = s.attempt := rfl
@[simp] theorem State.speedInit_iter (s : State) : (s.speedInit).iter = s.iter := rfl
@[simp] theorem State.speedInit_polls (s : State) : (s.speedInit).polls = s.polls := rfl
@[simp] theorem State.speedInit_bound (s : State) : (s.speedInit).bound = s.bound := rfl
@[simp] theorem State.speedInit_bidx (s : State) : (s.speedInit).bidx = s.bidx := rfl
@[simp] theorem State.speedInit_seq (s : State) : (s.speedInit).seq = s.seq := rfl
@[simp] theorem State.speedInit_tph (s : State) : (s.speedInit).tph = s.tph := rfl
@[simp] theorem State.speedInit_cardState (s : State) : (s.speedInit).cardState = s.cardState := rfl
@[simp] theorem State.speedInit_errKind (s : State) : (s.speedInit).errKind = s.errKind := rfl
@[simp] theorem State.speedInit_cardType (s : State) : (s.speedInit).cardType = s.cardType := rfl
@[simp] theorem State.speedInit_cardTypeValid (s : State) : (s.speedInit).cardTypeValid = s.cardTypeValid := rfl
@[simp] theorem State.speedInit_busSpeed (s : State) : (s.speedInit).busSpeed = .init := rfl
@[simp] theorem State.speedInit_sel (s : State) : (s.speedInit).sel = s.sel := rfl
@[simp] theorem State.speedInit_busy (s : State) : (s.speedInit).busy = s.busy := rfl
@[simp] theorem State.speedInit_done (s : State) : (s.speedInit).done = s.done := rfl
@[simp] theorem State.speedInit_ok (s : State) : (s.speedInit).ok = s.ok := rfl
@[simp] theorem State.speedInit_warnBlklen (s : State) : (s.speedInit).warnBlklen = s.warnBlklen := rfl
@[simp] theorem State.speedInit_start (s : State) : (s.speedInit).start = s.start := rfl
@[simp] theorem State.speedInit_rst (s : State) : (s.speedInit).rst = s.rst := rfl
@[simp] theorem State.speedInit_ack (s : State) : (s.speedInit).ack = s.ack := rfl
@[simp] theorem State.speedInit_rx (s : State) : (s.speedInit).rx = s.rx := rfl
@[simp] theorem State.speedInit_rxCount (s : State) : (s.speedInit).rxCount = s.rxCount := rfl
@[simp] theorem State.speedInit_params (s : State) : (s.speedInit).params = s.params := rfl
@[simp] theorem State.speedInit_events (s : State) : (s.speedInit).events = .speedInit :: s.events := rfl
@[simp] theorem State.speedInit_slot (s : State) : (s.speedInit).slot = s.slot := rfl

/-! ### speedOper -/

@[simp] theorem State.speedOper_frame (s : State) : (s.speedOper).frame = s.frame := rfl
@[simp] theorem State.speedOper_resp (s : State) : (s.speedOper).resp = s.resp := rfl
@[simp] theorem State.speedOper_ocr (s : State) : (s.speedOper).ocr = s.ocr := rfl
@[simp] theorem State.speedOper_attempt (s : State) : (s.speedOper).attempt = s.attempt := rfl
@[simp] theorem State.speedOper_iter (s : State) : (s.speedOper).iter = s.iter := rfl
@[simp] theorem State.speedOper_polls (s : State) : (s.speedOper).polls = s.polls := rfl
@[simp] theorem State.speedOper_bound (s : State) : (s.speedOper).bound = s.bound := rfl
@[simp] theorem State.speedOper_bidx (s : State) : (s.speedOper).bidx = s.bidx := rfl
@[simp] theorem State.speedOper_seq (s : State) : (s.speedOper).seq = s.seq := rfl
@[simp] theorem State.speedOper_tph (s : State) : (s.speedOper).tph = s.tph := rfl
@[simp] theorem State.speedOper_cardState (s : State) : (s.speedOper).cardState = s.cardState := rfl
@[simp] theorem State.speedOper_errKind (s : State) : (s.speedOper).errKind = s.errKind := rfl
@[simp] theorem State.speedOper_cardType (s : State) : (s.speedOper).cardType = s.cardType := rfl
@[simp] theorem State.speedOper_cardTypeValid (s : State) : (s.speedOper).cardTypeValid = s.cardTypeValid := rfl
@[simp] theorem State.speedOper_busSpeed (s : State) : (s.speedOper).busSpeed = .operational := rfl
@[simp] theorem State.speedOper_sel (s : State) : (s.speedOper).sel = s.sel := rfl
@[simp] theorem State.speedOper_busy (s : State) : (s.speedOper).busy = s.busy := rfl
@[simp] theorem State.speedOper_done (s : State) : (s.speedOper).done = s.done := rfl
@[simp] theorem State.speedOper_ok (s : State) : (s.speedOper).ok = s.ok := rfl
@[simp] theorem State.speedOper_warnBlklen (s : State) : (s.speedOper).warnBlklen = s.warnBlklen := rfl
@[simp] theorem State.speedOper_start (s : State) : (s.speedOper).start = s.start := rfl
@[simp] theorem State.speedOper_rst (s : State) : (s.speedOper).rst = s.rst := rfl
@[simp] theorem State.speedOper_ack (s : State) : (s.speedOper).ack = s.ack := rfl
@[simp] theorem State.speedOper_rx (s : State) : (s.speedOper).rx = s.rx := rfl
@[simp] theorem State.speedOper_rxCount (s : State) : (s.speedOper).rxCount = s.rxCount := rfl
@[simp] theorem State.speedOper_params (s : State) : (s.speedOper).params = s.params := rfl
@[simp] theorem State.speedOper_events (s : State) : (s.speedOper).events = .speedOper :: s.events := rfl
@[simp] theorem State.speedOper_slot (s : State) : (s.speedOper).slot = s.slot := rfl

/-! ### delay -/

@[simp] theorem State.delay_frame (ms : BitVec 16) (s : State) : (s.delay ms).frame = s.frame := rfl
@[simp] theorem State.delay_resp (ms : BitVec 16) (s : State) : (s.delay ms).resp = s.resp := rfl
@[simp] theorem State.delay_ocr (ms : BitVec 16) (s : State) : (s.delay ms).ocr = s.ocr := rfl
@[simp] theorem State.delay_attempt (ms : BitVec 16) (s : State) : (s.delay ms).attempt = s.attempt := rfl
@[simp] theorem State.delay_iter (ms : BitVec 16) (s : State) : (s.delay ms).iter = s.iter := rfl
@[simp] theorem State.delay_polls (ms : BitVec 16) (s : State) : (s.delay ms).polls = s.polls := rfl
@[simp] theorem State.delay_bound (ms : BitVec 16) (s : State) : (s.delay ms).bound = s.bound := rfl
@[simp] theorem State.delay_bidx (ms : BitVec 16) (s : State) : (s.delay ms).bidx = s.bidx := rfl
@[simp] theorem State.delay_seq (ms : BitVec 16) (s : State) : (s.delay ms).seq = s.seq := rfl
@[simp] theorem State.delay_tph (ms : BitVec 16) (s : State) : (s.delay ms).tph = s.tph := rfl
@[simp] theorem State.delay_cardState (ms : BitVec 16) (s : State) : (s.delay ms).cardState = s.cardState := rfl
@[simp] theorem State.delay_errKind (ms : BitVec 16) (s : State) : (s.delay ms).errKind = s.errKind := rfl
@[simp] theorem State.delay_cardType (ms : BitVec 16) (s : State) : (s.delay ms).cardType = s.cardType := rfl
@[simp] theorem State.delay_cardTypeValid (ms : BitVec 16) (s : State) : (s.delay ms).cardTypeValid = s.cardTypeValid := rfl
@[simp] theorem State.delay_busSpeed (ms : BitVec 16) (s : State) : (s.delay ms).busSpeed = s.busSpeed := rfl
@[simp] theorem State.delay_sel (ms : BitVec 16) (s : State) : (s.delay ms).sel = s.sel := rfl
@[simp] theorem State.delay_busy (ms : BitVec 16) (s : State) : (s.delay ms).busy = s.busy := rfl
@[simp] theorem State.delay_done (ms : BitVec 16) (s : State) : (s.delay ms).done = s.done := rfl
@[simp] theorem State.delay_ok (ms : BitVec 16) (s : State) : (s.delay ms).ok = s.ok := rfl
@[simp] theorem State.delay_warnBlklen (ms : BitVec 16) (s : State) : (s.delay ms).warnBlklen = s.warnBlklen := rfl
@[simp] theorem State.delay_start (ms : BitVec 16) (s : State) : (s.delay ms).start = s.start := rfl
@[simp] theorem State.delay_rst (ms : BitVec 16) (s : State) : (s.delay ms).rst = s.rst := rfl
@[simp] theorem State.delay_ack (ms : BitVec 16) (s : State) : (s.delay ms).ack = s.ack := rfl
@[simp] theorem State.delay_rx (ms : BitVec 16) (s : State) : (s.delay ms).rx = s.rx := rfl
@[simp] theorem State.delay_rxCount (ms : BitVec 16) (s : State) : (s.delay ms).rxCount = s.rxCount := rfl
@[simp] theorem State.delay_params (ms : BitVec 16) (s : State) : (s.delay ms).params = s.params := rfl
@[simp] theorem State.delay_events (ms : BitVec 16) (s : State) : (s.delay ms).events = .delay ms :: s.events := rfl
@[simp] theorem State.delay_slot (ms : BitVec 16) (s : State) : (s.delay ms).slot = s.slot := rfl

/-! ### goto -/

@[simp] theorem State.goto_frame (p : Seq) (s : State) : (s.goto p).frame = s.frame := rfl
@[simp] theorem State.goto_resp (p : Seq) (s : State) : (s.goto p).resp = s.resp := rfl
@[simp] theorem State.goto_ocr (p : Seq) (s : State) : (s.goto p).ocr = s.ocr := rfl
@[simp] theorem State.goto_attempt (p : Seq) (s : State) : (s.goto p).attempt = s.attempt := rfl
@[simp] theorem State.goto_iter (p : Seq) (s : State) : (s.goto p).iter = s.iter := rfl
@[simp] theorem State.goto_polls (p : Seq) (s : State) : (s.goto p).polls = s.polls := rfl
@[simp] theorem State.goto_bound (p : Seq) (s : State) : (s.goto p).bound = s.bound := rfl
@[simp] theorem State.goto_bidx (p : Seq) (s : State) : (s.goto p).bidx = s.bidx := rfl
@[simp] theorem State.goto_seq (p : Seq) (s : State) : (s.goto p).seq = p := rfl
@[simp] theorem State.goto_tph (p : Seq) (s : State) : (s.goto p).tph = s.tph := rfl
@[simp] theorem State.goto_cardState (p : Seq) (s : State) : (s.goto p).cardState = s.cardState := rfl
@[simp] theorem State.goto_errKind (p : Seq) (s : State) : (s.goto p).errKind = s.errKind := rfl
@[simp] theorem State.goto_cardType (p : Seq) (s : State) : (s.goto p).cardType = s.cardType := rfl
@[simp] theorem State.goto_cardTypeValid (p : Seq) (s : State) : (s.goto p).cardTypeValid = s.cardTypeValid := rfl
@[simp] theorem State.goto_busSpeed (p : Seq) (s : State) : (s.goto p).busSpeed = s.busSpeed := rfl
@[simp] theorem State.goto_sel (p : Seq) (s : State) : (s.goto p).sel = s.sel := rfl
@[simp] theorem State.goto_busy (p : Seq) (s : State) : (s.goto p).busy = s.busy := rfl
@[simp] theorem State.goto_done (p : Seq) (s : State) : (s.goto p).done = s.done := rfl
@[simp] theorem State.goto_ok (p : Seq) (s : State) : (s.goto p).ok = s.ok := rfl
@[simp] theorem State.goto_warnBlklen (p : Seq) (s : State) : (s.goto p).warnBlklen = s.warnBlklen := rfl
@[simp] theorem State.goto_start (p : Seq) (s : State) : (s.goto p).start = s.start := rfl
@[simp] theorem State.goto_rst (p : Seq) (s : State) : (s.goto p).rst = s.rst := rfl
@[simp] theorem State.goto_ack (p : Seq) (s : State) : (s.goto p).ack = s.ack := rfl
@[simp] theorem State.goto_rx (p : Seq) (s : State) : (s.goto p).rx = s.rx := rfl
@[simp] theorem State.goto_rxCount (p : Seq) (s : State) : (s.goto p).rxCount = s.rxCount := rfl
@[simp] theorem State.goto_params (p : Seq) (s : State) : (s.goto p).params = s.params := rfl
@[simp] theorem State.goto_events (p : Seq) (s : State) : (s.goto p).events = s.events := rfl
@[simp] theorem State.goto_slot (p : Seq) (s : State) : (s.goto p).slot = s.slot := rfl

/-! ### enterPhase -/

@[simp] theorem State.enterPhase_frame (p : Phase) (s : State) : (s.enterPhase p).frame = s.frame := rfl
@[simp] theorem State.enterPhase_resp (p : Phase) (s : State) : (s.enterPhase p).resp = s.resp := rfl
@[simp] theorem State.enterPhase_ocr (p : Phase) (s : State) : (s.enterPhase p).ocr = s.ocr := rfl
@[simp] theorem State.enterPhase_attempt (p : Phase) (s : State) : (s.enterPhase p).attempt = s.attempt := rfl
@[simp] theorem State.enterPhase_iter (p : Phase) (s : State) : (s.enterPhase p).iter = s.iter := rfl
@[simp] theorem State.enterPhase_polls (p : Phase) (s : State) : (s.enterPhase p).polls = s.polls := rfl
@[simp] theorem State.enterPhase_bound (p : Phase) (s : State) : (s.enterPhase p).bound = s.bound := rfl
@[simp] theorem State.enterPhase_bidx (p : Phase) (s : State) : (s.enterPhase p).bidx = s.bidx := rfl
@[simp] theorem State.enterPhase_seq (p : Phase) (s : State) : (s.enterPhase p).seq = s.seq := rfl
@[simp] theorem State.enterPhase_tph (p : Phase) (s : State) : (s.enterPhase p).tph = p := rfl
@[simp] theorem State.enterPhase_cardState (p : Phase) (s : State) : (s.enterPhase p).cardState = s.cardState := rfl
@[simp] theorem State.enterPhase_errKind (p : Phase) (s : State) : (s.enterPhase p).errKind = s.errKind := rfl
@[simp] theorem State.enterPhase_cardType (p : Phase) (s : State) : (s.enterPhase p).cardType = s.cardType := rfl
@[simp] theorem State.enterPhase_cardTypeValid (p : Phase) (s : State) : (s.enterPhase p).cardTypeValid = s.cardTypeValid := rfl
@[simp] theorem State.enterPhase_busSpeed (p : Phase) (s : State) : (s.enterPhase p).busSpeed = s.busSpeed := rfl
@[simp] theorem State.enterPhase_sel (p : Phase) (s : State) : (s.enterPhase p).sel = s.sel := rfl
@[simp] theorem State.enterPhase_busy (p : Phase) (s : State) : (s.enterPhase p).busy = s.busy := rfl
@[simp] theorem State.enterPhase_done (p : Phase) (s : State) : (s.enterPhase p).done = s.done := rfl
@[simp] theorem State.enterPhase_ok (p : Phase) (s : State) : (s.enterPhase p).ok = s.ok := rfl
@[simp] theorem State.enterPhase_warnBlklen (p : Phase) (s : State) : (s.enterPhase p).warnBlklen = s.warnBlklen := rfl
@[simp] theorem State.enterPhase_start (p : Phase) (s : State) : (s.enterPhase p).start = s.start := rfl
@[simp] theorem State.enterPhase_rst (p : Phase) (s : State) : (s.enterPhase p).rst = s.rst := rfl
@[simp] theorem State.enterPhase_ack (p : Phase) (s : State) : (s.enterPhase p).ack = s.ack := rfl
@[simp] theorem State.enterPhase_rx (p : Phase) (s : State) : (s.enterPhase p).rx = s.rx := rfl
@[simp] theorem State.enterPhase_rxCount (p : Phase) (s : State) : (s.enterPhase p).rxCount = s.rxCount := rfl
@[simp] theorem State.enterPhase_params (p : Phase) (s : State) : (s.enterPhase p).params = s.params := rfl
@[simp] theorem State.enterPhase_events (p : Phase) (s : State) : (s.enterPhase p).events = s.events := rfl
@[simp] theorem State.enterPhase_slot (p : Phase) (s : State) : (s.enterPhase p).slot = s.slot := rfl

/-! ### setBidx -/

@[simp] theorem State.setBidx_frame (n : BitVec 4) (s : State) : (s.setBidx n).frame = s.frame := rfl
@[simp] theorem State.setBidx_resp (n : BitVec 4) (s : State) : (s.setBidx n).resp = s.resp := rfl
@[simp] theorem State.setBidx_ocr (n : BitVec 4) (s : State) : (s.setBidx n).ocr = s.ocr := rfl
@[simp] theorem State.setBidx_attempt (n : BitVec 4) (s : State) : (s.setBidx n).attempt = s.attempt := rfl
@[simp] theorem State.setBidx_iter (n : BitVec 4) (s : State) : (s.setBidx n).iter = s.iter := rfl
@[simp] theorem State.setBidx_polls (n : BitVec 4) (s : State) : (s.setBidx n).polls = s.polls := rfl
@[simp] theorem State.setBidx_bound (n : BitVec 4) (s : State) : (s.setBidx n).bound = s.bound := rfl
@[simp] theorem State.setBidx_bidx (n : BitVec 4) (s : State) : (s.setBidx n).bidx = n := rfl
@[simp] theorem State.setBidx_seq (n : BitVec 4) (s : State) : (s.setBidx n).seq = s.seq := rfl
@[simp] theorem State.setBidx_tph (n : BitVec 4) (s : State) : (s.setBidx n).tph = s.tph := rfl
@[simp] theorem State.setBidx_cardState (n : BitVec 4) (s : State) : (s.setBidx n).cardState = s.cardState := rfl
@[simp] theorem State.setBidx_errKind (n : BitVec 4) (s : State) : (s.setBidx n).errKind = s.errKind := rfl
@[simp] theorem State.setBidx_cardType (n : BitVec 4) (s : State) : (s.setBidx n).cardType = s.cardType := rfl
@[simp] theorem State.setBidx_cardTypeValid (n : BitVec 4) (s : State) : (s.setBidx n).cardTypeValid = s.cardTypeValid := rfl
@[simp] theorem State.setBidx_busSpeed (n : BitVec 4) (s : State) : (s.setBidx n).busSpeed = s.busSpeed := rfl
@[simp] theorem State.setBidx_sel (n : BitVec 4) (s : State) : (s.setBidx n).sel = s.sel := rfl
@[simp] theorem State.setBidx_busy (n : BitVec 4) (s : State) : (s.setBidx n).busy = s.busy := rfl
@[simp] theorem State.setBidx_done (n : BitVec 4) (s : State) : (s.setBidx n).done = s.done := rfl
@[simp] theorem State.setBidx_ok (n : BitVec 4) (s : State) : (s.setBidx n).ok = s.ok := rfl
@[simp] theorem State.setBidx_warnBlklen (n : BitVec 4) (s : State) : (s.setBidx n).warnBlklen = s.warnBlklen := rfl
@[simp] theorem State.setBidx_start (n : BitVec 4) (s : State) : (s.setBidx n).start = s.start := rfl
@[simp] theorem State.setBidx_rst (n : BitVec 4) (s : State) : (s.setBidx n).rst = s.rst := rfl
@[simp] theorem State.setBidx_ack (n : BitVec 4) (s : State) : (s.setBidx n).ack = s.ack := rfl
@[simp] theorem State.setBidx_rx (n : BitVec 4) (s : State) : (s.setBidx n).rx = s.rx := rfl
@[simp] theorem State.setBidx_rxCount (n : BitVec 4) (s : State) : (s.setBidx n).rxCount = s.rxCount := rfl
@[simp] theorem State.setBidx_params (n : BitVec 4) (s : State) : (s.setBidx n).params = s.params := rfl
@[simp] theorem State.setBidx_events (n : BitVec 4) (s : State) : (s.setBidx n).events = s.events := rfl
@[simp] theorem State.setBidx_slot (n : BitVec 4) (s : State) : (s.setBidx n).slot = s.slot := rfl

/-! ### writeFrame -/

@[simp] theorem State.writeFrame_frame (f : Vector Byte 6) (s : State) : (s.writeFrame f).frame = f := rfl
@[simp] theorem State.writeFrame_resp (f : Vector Byte 6) (s : State) : (s.writeFrame f).resp = s.resp := rfl
@[simp] theorem State.writeFrame_ocr (f : Vector Byte 6) (s : State) : (s.writeFrame f).ocr = s.ocr := rfl
@[simp] theorem State.writeFrame_attempt (f : Vector Byte 6) (s : State) : (s.writeFrame f).attempt = s.attempt := rfl
@[simp] theorem State.writeFrame_iter (f : Vector Byte 6) (s : State) : (s.writeFrame f).iter = s.iter := rfl
@[simp] theorem State.writeFrame_polls (f : Vector Byte 6) (s : State) : (s.writeFrame f).polls = s.polls := rfl
@[simp] theorem State.writeFrame_bound (f : Vector Byte 6) (s : State) : (s.writeFrame f).bound = s.bound := rfl
@[simp] theorem State.writeFrame_bidx (f : Vector Byte 6) (s : State) : (s.writeFrame f).bidx = s.bidx := rfl
@[simp] theorem State.writeFrame_seq (f : Vector Byte 6) (s : State) : (s.writeFrame f).seq = s.seq := rfl
@[simp] theorem State.writeFrame_tph (f : Vector Byte 6) (s : State) : (s.writeFrame f).tph = s.tph := rfl
@[simp] theorem State.writeFrame_cardState (f : Vector Byte 6) (s : State) : (s.writeFrame f).cardState = s.cardState := rfl
@[simp] theorem State.writeFrame_errKind (f : Vector Byte 6) (s : State) : (s.writeFrame f).errKind = s.errKind := rfl
@[simp] theorem State.writeFrame_cardType (f : Vector Byte 6) (s : State) : (s.writeFrame f).cardType = s.cardType := rfl
@[simp] theorem State.writeFrame_cardTypeValid (f : Vector Byte 6) (s : State) : (s.writeFrame f).cardTypeValid = s.cardTypeValid := rfl
@[simp] theorem State.writeFrame_busSpeed (f : Vector Byte 6) (s : State) : (s.writeFrame f).busSpeed = s.busSpeed := rfl
@[simp] theorem State.writeFrame_sel (f : Vector Byte 6) (s : State) : (s.writeFrame f).sel = s.sel := rfl
@[simp] theorem State.writeFrame_busy (f : Vector Byte 6) (s : State) : (s.writeFrame f).busy = s.busy := rfl
@[simp] theorem State.writeFrame_done (f : Vector Byte 6) (s : State) : (s.writeFrame f).done = s.done := rfl
@[simp] theorem State.writeFrame_ok (f : Vector Byte 6) (s : State) : (s.writeFrame f).ok = s.ok := rfl
@[simp] theorem State.writeFrame_warnBlklen (f : Vector Byte 6) (s : State) : (s.writeFrame f).warnBlklen = s.warnBlklen := rfl
@[simp] theorem State.writeFrame_start (f : Vector Byte 6) (s : State) : (s.writeFrame f).start = s.start := rfl
@[simp] theorem State.writeFrame_rst (f : Vector Byte 6) (s : State) : (s.writeFrame f).rst = s.rst := rfl
@[simp] theorem State.writeFrame_ack (f : Vector Byte 6) (s : State) : (s.writeFrame f).ack = s.ack := rfl
@[simp] theorem State.writeFrame_rx (f : Vector Byte 6) (s : State) : (s.writeFrame f).rx = s.rx := rfl
@[simp] theorem State.writeFrame_rxCount (f : Vector Byte 6) (s : State) : (s.writeFrame f).rxCount = s.rxCount := rfl
@[simp] theorem State.writeFrame_params (f : Vector Byte 6) (s : State) : (s.writeFrame f).params = s.params := rfl
@[simp] theorem State.writeFrame_events (f : Vector Byte 6) (s : State) : (s.writeFrame f).events = s.events := rfl
@[simp] theorem State.writeFrame_slot (f : Vector Byte 6) (s : State) : (s.writeFrame f).slot = s.slot := rfl

/-! ### startPoll -/

@[simp] theorem State.startPoll_frame (n : Nat) (s : State) : (s.startPoll n).frame = s.frame := rfl
@[simp] theorem State.startPoll_resp (n : Nat) (s : State) : (s.startPoll n).resp = s.resp := rfl
@[simp] theorem State.startPoll_ocr (n : Nat) (s : State) : (s.startPoll n).ocr = s.ocr := rfl
@[simp] theorem State.startPoll_attempt (n : Nat) (s : State) : (s.startPoll n).attempt = s.attempt := rfl
@[simp] theorem State.startPoll_iter (n : Nat) (s : State) : (s.startPoll n).iter = s.iter := rfl
@[simp] theorem State.startPoll_polls (n : Nat) (s : State) : (s.startPoll n).polls = 0 := rfl
@[simp] theorem State.startPoll_bound (n : Nat) (s : State) : (s.startPoll n).bound = n := rfl
@[simp] theorem State.startPoll_bidx (n : Nat) (s : State) : (s.startPoll n).bidx = s.bidx := rfl
@[simp] theorem State.startPoll_seq (n : Nat) (s : State) : (s.startPoll n).seq = s.seq := rfl
@[simp] theorem State.startPoll_tph (n : Nat) (s : State) : (s.startPoll n).tph = s.tph := rfl
@[simp] theorem State.startPoll_cardState (n : Nat) (s : State) : (s.startPoll n).cardState = s.cardState := rfl
@[simp] theorem State.startPoll_errKind (n : Nat) (s : State) : (s.startPoll n).errKind = s.errKind := rfl
@[simp] theorem State.startPoll_cardType (n : Nat) (s : State) : (s.startPoll n).cardType = s.cardType := rfl
@[simp] theorem State.startPoll_cardTypeValid (n : Nat) (s : State) : (s.startPoll n).cardTypeValid = s.cardTypeValid := rfl
@[simp] theorem State.startPoll_busSpeed (n : Nat) (s : State) : (s.startPoll n).busSpeed = s.busSpeed := rfl
@[simp] theorem State.startPoll_sel (n : Nat) (s : State) : (s.startPoll n).sel = s.sel := rfl
@[simp] theorem State.startPoll_busy (n : Nat) (s : State) : (s.startPoll n).busy = s.busy := rfl
@[simp] theorem State.startPoll_done (n : Nat) (s : State) : (s.startPoll n).done = s.done := rfl
@[simp] theorem State.startPoll_ok (n : Nat) (s : State) : (s.startPoll n).ok = s.ok := rfl
@[simp] theorem State.startPoll_warnBlklen (n : Nat) (s : State) : (s.startPoll n).warnBlklen = s.warnBlklen := rfl
@[simp] theorem State.startPoll_start (n : Nat) (s : State) : (s.startPoll n).start = s.start := rfl
@[simp] theorem State.startPoll_rst (n : Nat) (s : State) : (s.startPoll n).rst = s.rst := rfl
@[simp] theorem State.startPoll_ack (n : Nat) (s : State) : (s.startPoll n).ack = s.ack := rfl
@[simp] theorem State.startPoll_rx (n : Nat) (s : State) : (s.startPoll n).rx = s.rx := rfl
@[simp] theorem State.startPoll_rxCount (n : Nat) (s : State) : (s.startPoll n).rxCount = s.rxCount := rfl
@[simp] theorem State.startPoll_params (n : Nat) (s : State) : (s.startPoll n).params = s.params := rfl
@[simp] theorem State.startPoll_events (n : Nat) (s : State) : (s.startPoll n).events = s.events := rfl
@[simp] theorem State.startPoll_slot (n : Nat) (s : State) : (s.startPoll n).slot = s.slot := rfl

/-! ### setResp -/

@[simp] theorem State.setResp_frame (r : Resp) (s : State) : (s.setResp r).frame = s.frame := rfl
@[simp] theorem State.setResp_resp (r : Resp) (s : State) : (s.setResp r).resp = r := rfl
@[simp] theorem State.setResp_ocr (r : Resp) (s : State) : (s.setResp r).ocr = s.ocr := rfl
@[simp] theorem State.setResp_attempt (r : Resp) (s : State) : (s.setResp r).attempt = s.attempt := rfl
@[simp] theorem State.setResp_iter (r : Resp) (s : State) : (s.setResp r).iter = s.iter := rfl
@[simp] theorem State.setResp_polls (r : Resp) (s : State) : (s.setResp r).polls = s.polls := rfl
@[simp] theorem State.setResp_bound (r : Resp) (s : State) : (s.setResp r).bound = s.bound := rfl
@[simp] theorem State.setResp_bidx (r : Resp) (s : State) : (s.setResp r).bidx = s.bidx := rfl
@[simp] theorem State.setResp_seq (r : Resp) (s : State) : (s.setResp r).seq = s.seq := rfl
@[simp] theorem State.setResp_tph (r : Resp) (s : State) : (s.setResp r).tph = s.tph := rfl
@[simp] theorem State.setResp_cardState (r : Resp) (s : State) : (s.setResp r).cardState = s.cardState := rfl
@[simp] theorem State.setResp_errKind (r : Resp) (s : State) : (s.setResp r).errKind = s.errKind := rfl
@[simp] theorem State.setResp_cardType (r : Resp) (s : State) : (s.setResp r).cardType = s.cardType := rfl
@[simp] theorem State.setResp_cardTypeValid (r : Resp) (s : State) : (s.setResp r).cardTypeValid = s.cardTypeValid := rfl
@[simp] theorem State.setResp_busSpeed (r : Resp) (s : State) : (s.setResp r).busSpeed = s.busSpeed := rfl
@[simp] theorem State.setResp_sel (r : Resp) (s : State) : (s.setResp r).sel = s.sel := rfl
@[simp] theorem State.setResp_busy (r : Resp) (s : State) : (s.setResp r).busy = s.busy := rfl
@[simp] theorem State.setResp_done (r : Resp) (s : State) : (s.setResp r).done = s.done := rfl
@[simp] theorem State.setResp_ok (r : Resp) (s : State) : (s.setResp r).ok = s.ok := rfl
@[simp] theorem State.setResp_warnBlklen (r : Resp) (s : State) : (s.setResp r).warnBlklen = s.warnBlklen := rfl
@[simp] theorem State.setResp_start (r : Resp) (s : State) : (s.setResp r).start = s.start := rfl
@[simp] theorem State.setResp_rst (r : Resp) (s : State) : (s.setResp r).rst = s.rst := rfl
@[simp] theorem State.setResp_ack (r : Resp) (s : State) : (s.setResp r).ack = s.ack := rfl
@[simp] theorem State.setResp_rx (r : Resp) (s : State) : (s.setResp r).rx = s.rx := rfl
@[simp] theorem State.setResp_rxCount (r : Resp) (s : State) : (s.setResp r).rxCount = s.rxCount := rfl
@[simp] theorem State.setResp_params (r : Resp) (s : State) : (s.setResp r).params = s.params := rfl
@[simp] theorem State.setResp_events (r : Resp) (s : State) : (s.setResp r).events = s.events := rfl
@[simp] theorem State.setResp_slot (r : Resp) (s : State) : (s.setResp r).slot = s.slot := rfl

/-! ### setAttempt -/

@[simp] theorem State.setAttempt_frame (n : BitVec 8) (s : State) : (s.setAttempt n).frame = s.frame := rfl
@[simp] theorem State.setAttempt_resp (n : BitVec 8) (s : State) : (s.setAttempt n).resp = s.resp := rfl
@[simp] theorem State.setAttempt_ocr (n : BitVec 8) (s : State) : (s.setAttempt n).ocr = s.ocr := rfl
@[simp] theorem State.setAttempt_attempt (n : BitVec 8) (s : State) : (s.setAttempt n).attempt = n := rfl
@[simp] theorem State.setAttempt_iter (n : BitVec 8) (s : State) : (s.setAttempt n).iter = s.iter := rfl
@[simp] theorem State.setAttempt_polls (n : BitVec 8) (s : State) : (s.setAttempt n).polls = s.polls := rfl
@[simp] theorem State.setAttempt_bound (n : BitVec 8) (s : State) : (s.setAttempt n).bound = s.bound := rfl
@[simp] theorem State.setAttempt_bidx (n : BitVec 8) (s : State) : (s.setAttempt n).bidx = s.bidx := rfl
@[simp] theorem State.setAttempt_seq (n : BitVec 8) (s : State) : (s.setAttempt n).seq = s.seq := rfl
@[simp] theorem State.setAttempt_tph (n : BitVec 8) (s : State) : (s.setAttempt n).tph = s.tph := rfl
@[simp] theorem State.setAttempt_cardState (n : BitVec 8) (s : State) : (s.setAttempt n).cardState = s.cardState := rfl
@[simp] theorem State.setAttempt_errKind (n : BitVec 8) (s : State) : (s.setAttempt n).errKind = s.errKind := rfl
@[simp] theorem State.setAttempt_cardType (n : BitVec 8) (s : State) : (s.setAttempt n).cardType = s.cardType := rfl
@[simp] theorem State.setAttempt_cardTypeValid (n : BitVec 8) (s : State) : (s.setAttempt n).cardTypeValid = s.cardTypeValid := rfl
@[simp] theorem State.setAttempt_busSpeed (n : BitVec 8) (s : State) : (s.setAttempt n).busSpeed = s.busSpeed := rfl
@[simp] theorem State.setAttempt_sel (n : BitVec 8) (s : State) : (s.setAttempt n).sel = s.sel := rfl
@[simp] theorem State.setAttempt_busy (n : BitVec 8) (s : State) : (s.setAttempt n).busy = s.busy := rfl
@[simp] theorem State.setAttempt_done (n : BitVec 8) (s : State) : (s.setAttempt n).done = s.done := rfl
@[simp] theorem State.setAttempt_ok (n : BitVec 8) (s : State) : (s.setAttempt n).ok = s.ok := rfl
@[simp] theorem State.setAttempt_warnBlklen (n : BitVec 8) (s : State) : (s.setAttempt n).warnBlklen = s.warnBlklen := rfl
@[simp] theorem State.setAttempt_start (n : BitVec 8) (s : State) : (s.setAttempt n).start = s.start := rfl
@[simp] theorem State.setAttempt_rst (n : BitVec 8) (s : State) : (s.setAttempt n).rst = s.rst := rfl
@[simp] theorem State.setAttempt_ack (n : BitVec 8) (s : State) : (s.setAttempt n).ack = s.ack := rfl
@[simp] theorem State.setAttempt_rx (n : BitVec 8) (s : State) : (s.setAttempt n).rx = s.rx := rfl
@[simp] theorem State.setAttempt_rxCount (n : BitVec 8) (s : State) : (s.setAttempt n).rxCount = s.rxCount := rfl
@[simp] theorem State.setAttempt_params (n : BitVec 8) (s : State) : (s.setAttempt n).params = s.params := rfl
@[simp] theorem State.setAttempt_events (n : BitVec 8) (s : State) : (s.setAttempt n).events = s.events := rfl
@[simp] theorem State.setAttempt_slot (n : BitVec 8) (s : State) : (s.setAttempt n).slot = s.slot := rfl

/-! ### setIter -/

@[simp] theorem State.setIter_frame (n : BitVec 16) (s : State) : (s.setIter n).frame = s.frame := rfl
@[simp] theorem State.setIter_resp (n : BitVec 16) (s : State) : (s.setIter n).resp = s.resp := rfl
@[simp] theorem State.setIter_ocr (n : BitVec 16) (s : State) : (s.setIter n).ocr = s.ocr := rfl
@[simp] theorem State.setIter_attempt (n : BitVec 16) (s : State) : (s.setIter n).attempt = s.attempt := rfl
@[simp] theorem State.setIter_iter (n : BitVec 16) (s : State) : (s.setIter n).iter = n := rfl
@[simp] theorem State.setIter_polls (n : BitVec 16) (s : State) : (s.setIter n).polls = s.polls := rfl
@[simp] theorem State.setIter_bound (n : BitVec 16) (s : State) : (s.setIter n).bound = s.bound := rfl
@[simp] theorem State.setIter_bidx (n : BitVec 16) (s : State) : (s.setIter n).bidx = s.bidx := rfl
@[simp] theorem State.setIter_seq (n : BitVec 16) (s : State) : (s.setIter n).seq = s.seq := rfl
@[simp] theorem State.setIter_tph (n : BitVec 16) (s : State) : (s.setIter n).tph = s.tph := rfl
@[simp] theorem State.setIter_cardState (n : BitVec 16) (s : State) : (s.setIter n).cardState = s.cardState := rfl
@[simp] theorem State.setIter_errKind (n : BitVec 16) (s : State) : (s.setIter n).errKind = s.errKind := rfl
@[simp] theorem State.setIter_cardType (n : BitVec 16) (s : State) : (s.setIter n).cardType = s.cardType := rfl
@[simp] theorem State.setIter_cardTypeValid (n : BitVec 16) (s : State) : (s.setIter n).cardTypeValid = s.cardTypeValid := rfl
@[simp] theorem State.setIter_busSpeed (n : BitVec 16) (s : State) : (s.setIter n).busSpeed = s.busSpeed := rfl
@[simp] theorem State.setIter_sel (n : BitVec 16) (s : State) : (s.setIter n).sel = s.sel := rfl
@[simp] theorem State.setIter_busy (n : BitVec 16) (s : State) : (s.setIter n).busy = s.busy := rfl
@[simp] theorem State.setIter_done (n : BitVec 16) (s : State) : (s.setIter n).done = s.done := rfl
@[simp] theorem State.setIter_ok (n : BitVec 16) (s : State) : (s.setIter n).ok = s.ok := rfl
@[simp] theorem State.setIter_warnBlklen (n : BitVec 16) (s : State) : (s.setIter n).warnBlklen = s.warnBlklen := rfl
@[simp] theorem State.setIter_start (n : BitVec 16) (s : State) : (s.setIter n).start = s.start := rfl
@[simp] theorem State.setIter_rst (n : BitVec 16) (s : State) : (s.setIter n).rst = s.rst := rfl
@[simp] theorem State.setIter_ack (n : BitVec 16) (s : State) : (s.setIter n).ack = s.ack := rfl
@[simp] theorem State.setIter_rx (n : BitVec 16) (s : State) : (s.setIter n).rx = s.rx := rfl
@[simp] theorem State.setIter_rxCount (n : BitVec 16) (s : State) : (s.setIter n).rxCount = s.rxCount := rfl
@[simp] theorem State.setIter_params (n : BitVec 16) (s : State) : (s.setIter n).params = s.params := rfl
@[simp] theorem State.setIter_events (n : BitVec 16) (s : State) : (s.setIter n).events = s.events := rfl
@[simp] theorem State.setIter_slot (n : BitVec 16) (s : State) : (s.setIter n).slot = s.slot := rfl

/-! ### setCardState -/

@[simp] theorem State.setCardState_frame (c : CardState) (s : State) : (s.setCardState c).frame = s.frame := rfl
@[simp] theorem State.setCardState_resp (c : CardState) (s : State) : (s.setCardState c).resp = s.resp := rfl
@[simp] theorem State.setCardState_ocr (c : CardState) (s : State) : (s.setCardState c).ocr = s.ocr := rfl
@[simp] theorem State.setCardState_attempt (c : CardState) (s : State) : (s.setCardState c).attempt = s.attempt := rfl
@[simp] theorem State.setCardState_iter (c : CardState) (s : State) : (s.setCardState c).iter = s.iter := rfl
@[simp] theorem State.setCardState_polls (c : CardState) (s : State) : (s.setCardState c).polls = s.polls := rfl
@[simp] theorem State.setCardState_bound (c : CardState) (s : State) : (s.setCardState c).bound = s.bound := rfl
@[simp] theorem State.setCardState_bidx (c : CardState) (s : State) : (s.setCardState c).bidx = s.bidx := rfl
@[simp] theorem State.setCardState_seq (c : CardState) (s : State) : (s.setCardState c).seq = s.seq := rfl
@[simp] theorem State.setCardState_tph (c : CardState) (s : State) : (s.setCardState c).tph = s.tph := rfl
@[simp] theorem State.setCardState_cardState (c : CardState) (s : State) : (s.setCardState c).cardState = c := rfl
@[simp] theorem State.setCardState_errKind (c : CardState) (s : State) : (s.setCardState c).errKind = s.errKind := rfl
@[simp] theorem State.setCardState_cardType (c : CardState) (s : State) : (s.setCardState c).cardType = s.cardType := rfl
@[simp] theorem State.setCardState_cardTypeValid (c : CardState) (s : State) : (s.setCardState c).cardTypeValid = s.cardTypeValid := rfl
@[simp] theorem State.setCardState_busSpeed (c : CardState) (s : State) : (s.setCardState c).busSpeed = s.busSpeed := rfl
@[simp] theorem State.setCardState_sel (c : CardState) (s : State) : (s.setCardState c).sel = s.sel := rfl
@[simp] theorem State.setCardState_busy (c : CardState) (s : State) : (s.setCardState c).busy = s.busy := rfl
@[simp] theorem State.setCardState_done (c : CardState) (s : State) : (s.setCardState c).done = s.done := rfl
@[simp] theorem State.setCardState_ok (c : CardState) (s : State) : (s.setCardState c).ok = s.ok := rfl
@[simp] theorem State.setCardState_warnBlklen (c : CardState) (s : State) : (s.setCardState c).warnBlklen = s.warnBlklen := rfl
@[simp] theorem State.setCardState_start (c : CardState) (s : State) : (s.setCardState c).start = s.start := rfl
@[simp] theorem State.setCardState_rst (c : CardState) (s : State) : (s.setCardState c).rst = s.rst := rfl
@[simp] theorem State.setCardState_ack (c : CardState) (s : State) : (s.setCardState c).ack = s.ack := rfl
@[simp] theorem State.setCardState_rx (c : CardState) (s : State) : (s.setCardState c).rx = s.rx := rfl
@[simp] theorem State.setCardState_rxCount (c : CardState) (s : State) : (s.setCardState c).rxCount = s.rxCount := rfl
@[simp] theorem State.setCardState_params (c : CardState) (s : State) : (s.setCardState c).params = s.params := rfl
@[simp] theorem State.setCardState_events (c : CardState) (s : State) : (s.setCardState c).events = s.events := rfl
@[simp] theorem State.setCardState_slot (c : CardState) (s : State) : (s.setCardState c).slot = s.slot := rfl

/-! ### setCardType -/

@[simp] theorem State.setCardType_frame (t : CardType) (s : State) : (s.setCardType t).frame = s.frame := rfl
@[simp] theorem State.setCardType_resp (t : CardType) (s : State) : (s.setCardType t).resp = s.resp := rfl
@[simp] theorem State.setCardType_ocr (t : CardType) (s : State) : (s.setCardType t).ocr = s.ocr := rfl
@[simp] theorem State.setCardType_attempt (t : CardType) (s : State) : (s.setCardType t).attempt = s.attempt := rfl
@[simp] theorem State.setCardType_iter (t : CardType) (s : State) : (s.setCardType t).iter = s.iter := rfl
@[simp] theorem State.setCardType_polls (t : CardType) (s : State) : (s.setCardType t).polls = s.polls := rfl
@[simp] theorem State.setCardType_bound (t : CardType) (s : State) : (s.setCardType t).bound = s.bound := rfl
@[simp] theorem State.setCardType_bidx (t : CardType) (s : State) : (s.setCardType t).bidx = s.bidx := rfl
@[simp] theorem State.setCardType_seq (t : CardType) (s : State) : (s.setCardType t).seq = s.seq := rfl
@[simp] theorem State.setCardType_tph (t : CardType) (s : State) : (s.setCardType t).tph = s.tph := rfl
@[simp] theorem State.setCardType_cardState (t : CardType) (s : State) : (s.setCardType t).cardState = s.cardState := rfl
@[simp] theorem State.setCardType_errKind (t : CardType) (s : State) : (s.setCardType t).errKind = s.errKind := rfl
@[simp] theorem State.setCardType_cardType (t : CardType) (s : State) : (s.setCardType t).cardType = t := rfl
@[simp] theorem State.setCardType_cardTypeValid (t : CardType) (s : State) : (s.setCardType t).cardTypeValid = true := rfl
@[simp] theorem State.setCardType_busSpeed (t : CardType) (s : State) : (s.setCardType t).busSpeed = s.busSpeed := rfl
@[simp] theorem State.setCardType_sel (t : CardType) (s : State) : (s.setCardType t).sel = s.sel := rfl
@[simp] theorem State.setCardType_busy (t : CardType) (s : State) : (s.setCardType t).busy = s.busy := rfl
@[simp] theorem State.setCardType_done (t : CardType) (s : State) : (s.setCardType t).done = s.done := rfl
@[simp] theorem State.setCardType_ok (t : CardType) (s : State) : (s.setCardType t).ok = s.ok := rfl
@[simp] theorem State.setCardType_warnBlklen (t : CardType) (s : State) : (s.setCardType t).warnBlklen = s.warnBlklen := rfl
@[simp] theorem State.setCardType_start (t : CardType) (s : State) : (s.setCardType t).start = s.start := rfl
@[simp] theorem State.setCardType_rst (t : CardType) (s : State) : (s.setCardType t).rst = s.rst := rfl
@[simp] theorem State.setCardType_ack (t : CardType) (s : State) : (s.setCardType t).ack = s.ack := rfl
@[simp] theorem State.setCardType_rx (t : CardType) (s : State) : (s.setCardType t).rx = s.rx := rfl
@[simp] theorem State.setCardType_rxCount (t : CardType) (s : State) : (s.setCardType t).rxCount = s.rxCount := rfl
@[simp] theorem State.setCardType_params (t : CardType) (s : State) : (s.setCardType t).params = s.params := rfl
@[simp] theorem State.setCardType_events (t : CardType) (s : State) : (s.setCardType t).events = s.events := rfl
@[simp] theorem State.setCardType_slot (t : CardType) (s : State) : (s.setCardType t).slot = s.slot := rfl

/-! ### warn -/

@[simp] theorem State.warn_frame (s : State) : (s.warn).frame = s.frame := rfl
@[simp] theorem State.warn_resp (s : State) : (s.warn).resp = s.resp := rfl
@[simp] theorem State.warn_ocr (s : State) : (s.warn).ocr = s.ocr := rfl
@[simp] theorem State.warn_attempt (s : State) : (s.warn).attempt = s.attempt := rfl
@[simp] theorem State.warn_iter (s : State) : (s.warn).iter = s.iter := rfl
@[simp] theorem State.warn_polls (s : State) : (s.warn).polls = s.polls := rfl
@[simp] theorem State.warn_bound (s : State) : (s.warn).bound = s.bound := rfl
@[simp] theorem State.warn_bidx (s : State) : (s.warn).bidx = s.bidx := rfl
@[simp] theorem State.warn_seq (s : State) : (s.warn).seq = s.seq := rfl
@[simp] theorem State.warn_tph (s : State) : (s.warn).tph = s.tph := rfl
@[simp] theorem State.warn_cardState (s : State) : (s.warn).cardState = s.cardState := rfl
@[simp] theorem State.warn_errKind (s : State) : (s.warn).errKind = s.errKind := rfl
@[simp] theorem State.warn_cardType (s : State) : (s.warn).cardType = s.cardType := rfl
@[simp] theorem State.warn_cardTypeValid (s : State) : (s.warn).cardTypeValid = s.cardTypeValid := rfl
@[simp] theorem State.warn_busSpeed (s : State) : (s.warn).busSpeed = s.busSpeed := rfl
@[simp] theorem State.warn_sel (s : State) : (s.warn).sel = s.sel := rfl
@[simp] theorem State.warn_busy (s : State) : (s.warn).busy = s.busy := rfl
@[simp] theorem State.warn_done (s : State) : (s.warn).done = s.done := rfl
@[simp] theorem State.warn_ok (s : State) : (s.warn).ok = s.ok := rfl
@[simp] theorem State.warn_warnBlklen (s : State) : (s.warn).warnBlklen = true := rfl
@[simp] theorem State.warn_start (s : State) : (s.warn).start = s.start := rfl
@[simp] theorem State.warn_rst (s : State) : (s.warn).rst = s.rst := rfl
@[simp] theorem State.warn_ack (s : State) : (s.warn).ack = s.ack := rfl
@[simp] theorem State.warn_rx (s : State) : (s.warn).rx = s.rx := rfl
@[simp] theorem State.warn_rxCount (s : State) : (s.warn).rxCount = s.rxCount := rfl
@[simp] theorem State.warn_params (s : State) : (s.warn).params = s.params := rfl
@[simp] theorem State.warn_events (s : State) : (s.warn).events = s.events := rfl
@[simp] theorem State.warn_slot (s : State) : (s.warn).slot = s.slot := rfl

/-! ### takeSlot -/

@[simp] theorem State.takeSlot_frame (s : State) : (s.takeSlot).frame = s.frame := rfl
@[simp] theorem State.takeSlot_resp (s : State) : (s.takeSlot).resp = s.resp := rfl
@[simp] theorem State.takeSlot_ocr (s : State) : (s.takeSlot).ocr = s.ocr := rfl
@[simp] theorem State.takeSlot_attempt (s : State) : (s.takeSlot).attempt = s.attempt := rfl
@[simp] theorem State.takeSlot_iter (s : State) : (s.takeSlot).iter = s.iter := rfl
@[simp] theorem State.takeSlot_polls (s : State) : (s.takeSlot).polls = s.polls := rfl
@[simp] theorem State.takeSlot_bound (s : State) : (s.takeSlot).bound = s.bound := rfl
@[simp] theorem State.takeSlot_bidx (s : State) : (s.takeSlot).bidx = s.bidx := rfl
@[simp] theorem State.takeSlot_seq (s : State) : (s.takeSlot).seq = s.seq := rfl
@[simp] theorem State.takeSlot_tph (s : State) : (s.takeSlot).tph = s.tph := rfl
@[simp] theorem State.takeSlot_cardState (s : State) : (s.takeSlot).cardState = s.cardState := rfl
@[simp] theorem State.takeSlot_errKind (s : State) : (s.takeSlot).errKind = s.errKind := rfl
@[simp] theorem State.takeSlot_cardType (s : State) : (s.takeSlot).cardType = s.cardType := rfl
@[simp] theorem State.takeSlot_cardTypeValid (s : State) : (s.takeSlot).cardTypeValid = s.cardTypeValid := rfl
@[simp] theorem State.takeSlot_busSpeed (s : State) : (s.takeSlot).busSpeed = s.busSpeed := rfl
@[simp] theorem State.takeSlot_sel (s : State) : (s.takeSlot).sel = s.sel := rfl
@[simp] theorem State.takeSlot_busy (s : State) : (s.takeSlot).busy = s.busy := rfl
@[simp] theorem State.takeSlot_done (s : State) : (s.takeSlot).done = s.done := rfl
@[simp] theorem State.takeSlot_ok (s : State) : (s.takeSlot).ok = s.ok := rfl
@[simp] theorem State.takeSlot_warnBlklen (s : State) : (s.takeSlot).warnBlklen = s.warnBlklen := rfl
@[simp] theorem State.takeSlot_start (s : State) : (s.takeSlot).start = s.start := rfl
@[simp] theorem State.takeSlot_rst (s : State) : (s.takeSlot).rst = s.rst := rfl
@[simp] theorem State.takeSlot_ack (s : State) : (s.takeSlot).ack = s.ack := rfl
@[simp] theorem State.takeSlot_rx (s : State) : (s.takeSlot).rx = s.rx := rfl
@[simp] theorem State.takeSlot_rxCount (s : State) : (s.takeSlot).rxCount = s.rxCount := rfl
@[simp] theorem State.takeSlot_params (s : State) : (s.takeSlot).params = s.params := rfl
@[simp] theorem State.takeSlot_events (s : State) : (s.takeSlot).events = s.events := rfl
@[simp] theorem State.takeSlot_slot (s : State) : (s.takeSlot).slot = none := rfl

/-! ### pollXchg -/

@[simp] theorem State.pollXchg_frame (s : State) : (s.pollXchg).frame = s.frame := rfl
@[simp] theorem State.pollXchg_resp (s : State) : (s.pollXchg).resp = s.resp := rfl
@[simp] theorem State.pollXchg_ocr (s : State) : (s.pollXchg).ocr = s.ocr := rfl
@[simp] theorem State.pollXchg_attempt (s : State) : (s.pollXchg).attempt = s.attempt := rfl
@[simp] theorem State.pollXchg_iter (s : State) : (s.pollXchg).iter = s.iter := rfl
@[simp] theorem State.pollXchg_polls (s : State) : (s.pollXchg).polls = s.polls + 1 := rfl
@[simp] theorem State.pollXchg_bound (s : State) : (s.pollXchg).bound = s.bound := rfl
@[simp] theorem State.pollXchg_bidx (s : State) : (s.pollXchg).bidx = s.bidx := rfl
@[simp] theorem State.pollXchg_seq (s : State) : (s.pollXchg).seq = s.seq := rfl
@[simp] theorem State.pollXchg_tph (s : State) : (s.pollXchg).tph = s.tph := rfl
@[simp] theorem State.pollXchg_cardState (s : State) : (s.pollXchg).cardState = s.cardState := rfl
@[simp] theorem State.pollXchg_errKind (s : State) : (s.pollXchg).errKind = s.errKind := rfl
@[simp] theorem State.pollXchg_cardType (s : State) : (s.pollXchg).cardType = s.cardType := rfl
@[simp] theorem State.pollXchg_cardTypeValid (s : State) : (s.pollXchg).cardTypeValid = s.cardTypeValid := rfl
@[simp] theorem State.pollXchg_busSpeed (s : State) : (s.pollXchg).busSpeed = s.busSpeed := rfl
@[simp] theorem State.pollXchg_sel (s : State) : (s.pollXchg).sel = s.sel := rfl
@[simp] theorem State.pollXchg_busy (s : State) : (s.pollXchg).busy = s.busy := rfl
@[simp] theorem State.pollXchg_done (s : State) : (s.pollXchg).done = s.done := rfl
@[simp] theorem State.pollXchg_ok (s : State) : (s.pollXchg).ok = s.ok := rfl
@[simp] theorem State.pollXchg_warnBlklen (s : State) : (s.pollXchg).warnBlklen = s.warnBlklen := rfl
@[simp] theorem State.pollXchg_start (s : State) : (s.pollXchg).start = s.start := rfl
@[simp] theorem State.pollXchg_rst (s : State) : (s.pollXchg).rst = s.rst := rfl
@[simp] theorem State.pollXchg_ack (s : State) : (s.pollXchg).ack = s.ack := rfl
@[simp] theorem State.pollXchg_rx (s : State) : (s.pollXchg).rx = s.rx.tail := rfl
@[simp] theorem State.pollXchg_rxCount (s : State) : (s.pollXchg).rxCount = s.rxCount + 1 := rfl
@[simp] theorem State.pollXchg_params (s : State) : (s.pollXchg).params = s.params := rfl
@[simp] theorem State.pollXchg_events (s : State) : (s.pollXchg).events = .xchg Config.filler s.nextByte :: s.events := rfl
@[simp] theorem State.pollXchg_slot (s : State) : (s.pollXchg).slot = s.slot := rfl

/-! ### sendXchg -/

@[simp] theorem State.sendXchg_frame (out : Byte) (s : State) : (s.sendXchg out).frame = s.frame := rfl
@[simp] theorem State.sendXchg_resp (out : Byte) (s : State) : (s.sendXchg out).resp = s.resp := rfl
@[simp] theorem State.sendXchg_ocr (out : Byte) (s : State) : (s.sendXchg out).ocr = s.ocr := rfl
@[simp] theorem State.sendXchg_attempt (out : Byte) (s : State) : (s.sendXchg out).attempt = s.attempt := rfl
@[simp] theorem State.sendXchg_iter (out : Byte) (s : State) : (s.sendXchg out).iter = s.iter := rfl
@[simp] theorem State.sendXchg_polls (out : Byte) (s : State) : (s.sendXchg out).polls = s.polls := rfl
@[simp] theorem State.sendXchg_bound (out : Byte) (s : State) : (s.sendXchg out).bound = s.bound := rfl
@[simp] theorem State.sendXchg_bidx (out : Byte) (s : State) : (s.sendXchg out).bidx = s.bidx + 1 := rfl
@[simp] theorem State.sendXchg_seq (out : Byte) (s : State) : (s.sendXchg out).seq = s.seq := rfl
@[simp] theorem State.sendXchg_tph (out : Byte) (s : State) : (s.sendXchg out).tph = s.tph := rfl
@[simp] theorem State.sendXchg_cardState (out : Byte) (s : State) : (s.sendXchg out).cardState = s.cardState := rfl
@[simp] theorem State.sendXchg_errKind (out : Byte) (s : State) : (s.sendXchg out).errKind = s.errKind := rfl
@[simp] theorem State.sendXchg_cardType (out : Byte) (s : State) : (s.sendXchg out).cardType = s.cardType := rfl
@[simp] theorem State.sendXchg_cardTypeValid (out : Byte) (s : State) : (s.sendXchg out).cardTypeValid = s.cardTypeValid := rfl
@[simp] theorem State.sendXchg_busSpeed (out : Byte) (s : State) : (s.sendXchg out).busSpeed = s.busSpeed := rfl
@[simp] theorem State.sendXchg_sel (out : Byte) (s : State) : (s.sendXchg out).sel = s.sel := rfl
@[simp] theorem State.sendXchg_busy (out : Byte) (s : State) : (s.sendXchg out).busy = s.busy := rfl
@[simp] theorem State.sendXchg_done (out : Byte) (s : State) : (s.sendXchg out).done = s.done := rfl
@[simp] theorem State.sendXchg_ok (out : Byte) (s : State) : (s.sendXchg out).ok = s.ok := rfl
@[simp] theorem State.sendXchg_warnBlklen (out : Byte) (s : State) : (s.sendXchg out).warnBlklen = s.warnBlklen := rfl
@[simp] theorem State.sendXchg_start (out : Byte) (s : State) : (s.sendXchg out).start = s.start := rfl
@[simp] theorem State.sendXchg_rst (out : Byte) (s : State) : (s.sendXchg out).rst = s.rst := rfl
@[simp] theorem State.sendXchg_ack (out : Byte) (s : State) : (s.sendXchg out).ack = s.ack := rfl
@[simp] theorem State.sendXchg_rx (out : Byte) (s : State) : (s.sendXchg out).rx = s.rx.tail := rfl
@[simp] theorem State.sendXchg_rxCount (out : Byte) (s : State) : (s.sendXchg out).rxCount = s.rxCount + 1 := rfl
@[simp] theorem State.sendXchg_params (out : Byte) (s : State) : (s.sendXchg out).params = s.params := rfl
@[simp] theorem State.sendXchg_events (out : Byte) (s : State) : (s.sendXchg out).events = .xchg out s.nextByte :: s.events := rfl
@[simp] theorem State.sendXchg_slot (out : Byte) (s : State) : (s.sendXchg out).slot = s.slot := rfl

/-! ### ocrXchg -/

@[simp] theorem State.ocrXchg_frame (s : State) : (s.ocrXchg).frame = s.frame := rfl
@[simp] theorem State.ocrXchg_resp (s : State) : (s.ocrXchg).resp = s.resp := rfl
@[simp] theorem State.ocrXchg_ocr (s : State) : (s.ocrXchg).ocr = (s.ocr <<< 8) ||| s.nextByte.setWidth 32 := rfl
@[simp] theorem State.ocrXchg_attempt (s : State) : (s.ocrXchg).attempt = s.attempt := rfl
@[simp] theorem State.ocrXchg_iter (s : State) : (s.ocrXchg).iter = s.iter := rfl
@[simp] theorem State.ocrXchg_polls (s : State) : (s.ocrXchg).polls = s.polls := rfl
@[simp] theorem State.ocrXchg_bound (s : State) : (s.ocrXchg).bound = s.bound := rfl
@[simp] theorem State.ocrXchg_bidx (s : State) : (s.ocrXchg).bidx = s.bidx + 1 := rfl
@[simp] theorem State.ocrXchg_seq (s : State) : (s.ocrXchg).seq = s.seq := rfl
@[simp] theorem State.ocrXchg_tph (s : State) : (s.ocrXchg).tph = s.tph := rfl
@[simp] theorem State.ocrXchg_cardState (s : State) : (s.ocrXchg).cardState = s.cardState := rfl
@[simp] theorem State.ocrXchg_errKind (s : State) : (s.ocrXchg).errKind = s.errKind := rfl
@[simp] theorem State.ocrXchg_cardType (s : State) : (s.ocrXchg).cardType = s.cardType := rfl
@[simp] theorem State.ocrXchg_cardTypeValid (s : State) : (s.ocrXchg).cardTypeValid = s.cardTypeValid := rfl
@[simp] theorem State.ocrXchg_busSpeed (s : State) : (s.ocrXchg).busSpeed = s.busSpeed := rfl
@[simp] theorem State.ocrXchg_sel (s : State) : (s.ocrXchg).sel = s.sel := rfl
@[simp] theorem State.ocrXchg_busy (s : State) : (s.ocrXchg).busy = s.busy := rfl
@[simp] theorem State.ocrXchg_done (s : State) : (s.ocrXchg).done = s.done := rfl
@[simp] theorem State.ocrXchg_ok (s : State) : (s.ocrXchg).ok = s.ok := rfl
@[simp] theorem State.ocrXchg_warnBlklen (s : State) : (s.ocrXchg).warnBlklen = s.warnBlklen := rfl
@[simp] theorem State.ocrXchg_start (s : State) : (s.ocrXchg).start = s.start := rfl
@[simp] theorem State.ocrXchg_rst (s : State) : (s.ocrXchg).rst = s.rst := rfl
@[simp] theorem State.ocrXchg_ack (s : State) : (s.ocrXchg).ack = s.ack := rfl
@[simp] theorem State.ocrXchg_rx (s : State) : (s.ocrXchg).rx = s.rx.tail := rfl
@[simp] theorem State.ocrXchg_rxCount (s : State) : (s.ocrXchg).rxCount = s.rxCount + 1 := rfl
@[simp] theorem State.ocrXchg_params (s : State) : (s.ocrXchg).params = s.params := rfl
@[simp] theorem State.ocrXchg_events (s : State) : (s.ocrXchg).events = .xchg Config.filler s.nextByte :: s.events := rfl
@[simp] theorem State.ocrXchg_slot (s : State) : (s.ocrXchg).slot = s.slot := rfl

/-! ### acceptStart -/

@[simp] theorem State.acceptStart_frame (s : State) : (s.acceptStart).frame = s.frame := rfl
@[simp] theorem State.acceptStart_resp (s : State) : (s.acceptStart).resp = s.resp := rfl
@[simp] theorem State.acceptStart_ocr (s : State) : (s.acceptStart).ocr = s.ocr := rfl
@[simp] theorem State.acceptStart_attempt (s : State) : (s.acceptStart).attempt = s.attempt := rfl
@[simp] theorem State.acceptStart_iter (s : State) : (s.acceptStart).iter = s.iter := rfl
@[simp] theorem State.acceptStart_polls (s : State) : (s.acceptStart).polls = s.polls := rfl
@[simp] theorem State.acceptStart_bound (s : State) : (s.acceptStart).bound = s.bound := rfl
@[simp] theorem State.acceptStart_bidx (s : State) : (s.acceptStart).bidx = s.bidx := rfl
@[simp] theorem State.acceptStart_seq (s : State) : (s.acceptStart).seq = .s1Speed := rfl
@[simp] theorem State.acceptStart_tph (s : State) : (s.acceptStart).tph = .none := rfl
@[simp] theorem State.acceptStart_cardState (s : State) : (s.acceptStart).cardState = .uninitialized := rfl
@[simp] theorem State.acceptStart_errKind (s : State) : (s.acceptStart).errKind = .none := rfl
@[simp] theorem State.acceptStart_cardType (s : State) : (s.acceptStart).cardType = s.cardType := rfl
@[simp] theorem State.acceptStart_cardTypeValid (s : State) : (s.acceptStart).cardTypeValid = false := rfl
@[simp] theorem State.acceptStart_busSpeed (s : State) : (s.acceptStart).busSpeed = s.busSpeed := rfl
@[simp] theorem State.acceptStart_sel (s : State) : (s.acceptStart).sel = s.sel := rfl
@[simp] theorem State.acceptStart_busy (s : State) : (s.acceptStart).busy = true := rfl
@[simp] theorem State.acceptStart_done (s : State) : (s.acceptStart).done = false := rfl
@[simp] theorem State.acceptStart_ok (s : State) : (s.acceptStart).ok = false := rfl
@[simp] theorem State.acceptStart_warnBlklen (s : State) : (s.acceptStart).warnBlklen = false := rfl
@[simp] theorem State.acceptStart_start (s : State) : (s.acceptStart).start = s.start := rfl
@[simp] theorem State.acceptStart_rst (s : State) : (s.acceptStart).rst = s.rst := rfl
@[simp] theorem State.acceptStart_ack (s : State) : (s.acceptStart).ack = s.ack := rfl
@[simp] theorem State.acceptStart_rx (s : State) : (s.acceptStart).rx = s.rx := rfl
@[simp] theorem State.acceptStart_rxCount (s : State) : (s.acceptStart).rxCount = s.rxCount := rfl
@[simp] theorem State.acceptStart_params (s : State) : (s.acceptStart).params = s.params := rfl
@[simp] theorem State.acceptStart_events (s : State) : (s.acceptStart).events = s.events := rfl
@[simp] theorem State.acceptStart_slot (s : State) : (s.acceptStart).slot = s.slot := rfl

/-! ### raiseInitError -/

@[simp] theorem State.raiseInitError_frame (k : ErrKind) (s : State) : (s.raiseInitError k).frame = s.frame := rfl
@[simp] theorem State.raiseInitError_resp (k : ErrKind) (s : State) : (s.raiseInitError k).resp = s.resp := rfl
@[simp] theorem State.raiseInitError_ocr (k : ErrKind) (s : State) : (s.raiseInitError k).ocr = s.ocr := rfl
@[simp] theorem State.raiseInitError_attempt (k : ErrKind) (s : State) : (s.raiseInitError k).attempt = s.attempt := rfl
@[simp] theorem State.raiseInitError_iter (k : ErrKind) (s : State) : (s.raiseInitError k).iter = s.iter := rfl
@[simp] theorem State.raiseInitError_polls (k : ErrKind) (s : State) : (s.raiseInitError k).polls = s.polls := rfl
@[simp] theorem State.raiseInitError_bound (k : ErrKind) (s : State) : (s.raiseInitError k).bound = s.bound := rfl
@[simp] theorem State.raiseInitError_bidx (k : ErrKind) (s : State) : (s.raiseInitError k).bidx = s.bidx := rfl
@[simp] theorem State.raiseInitError_seq (k : ErrKind) (s : State) : (s.raiseInitError k).seq = .idle := rfl
@[simp] theorem State.raiseInitError_tph (k : ErrKind) (s : State) : (s.raiseInitError k).tph = s.tph := rfl
@[simp] theorem State.raiseInitError_cardState (k : ErrKind) (s : State) : (s.raiseInitError k).cardState = .failed := rfl
@[simp] theorem State.raiseInitError_errKind (k : ErrKind) (s : State) : (s.raiseInitError k).errKind = k := rfl
@[simp] theorem State.raiseInitError_cardType (k : ErrKind) (s : State) : (s.raiseInitError k).cardType = s.cardType := rfl
@[simp] theorem State.raiseInitError_cardTypeValid (k : ErrKind) (s : State) : (s.raiseInitError k).cardTypeValid = s.cardTypeValid := rfl
@[simp] theorem State.raiseInitError_busSpeed (k : ErrKind) (s : State) : (s.raiseInitError k).busSpeed = s.busSpeed := rfl
@[simp] theorem State.raiseInitError_sel (k : ErrKind) (s : State) : (s.raiseInitError k).sel = s.sel := rfl
@[simp] theorem State.raiseInitError_busy (k : ErrKind) (s : State) : (s.raiseInitError k).busy = false := rfl
@[simp] theorem State.raiseInitError_done (k : ErrKind) (s : State) : (s.raiseInitError k).done = true := rfl
@[simp] theorem State.raiseInitError_ok (k : ErrKind) (s : State) : (s.raiseInitError k).ok = false := rfl
@[simp] theorem State.raiseInitError_warnBlklen (k : ErrKind) (s : State) : (s.raiseInitError k).warnBlklen = s.warnBlklen := rfl
@[simp] theorem State.raiseInitError_start (k : ErrKind) (s : State) : (s.raiseInitError k).start = s.start := rfl
@[simp] theorem State.raiseInitError_rst (k : ErrKind) (s : State) : (s.raiseInitError k).rst = s.rst := rfl
@[simp] theorem State.raiseInitError_ack (k : ErrKind) (s : State) : (s.raiseInitError k).ack = s.ack := rfl
@[simp] theorem State.raiseInitError_rx (k : ErrKind) (s : State) : (s.raiseInitError k).rx = s.rx := rfl
@[simp] theorem State.raiseInitError_rxCount (k : ErrKind) (s : State) : (s.raiseInitError k).rxCount = s.rxCount := rfl
@[simp] theorem State.raiseInitError_params (k : ErrKind) (s : State) : (s.raiseInitError k).params = s.params := rfl
@[simp] theorem State.raiseInitError_events (k : ErrKind) (s : State) : (s.raiseInitError k).events = s.events := rfl
@[simp] theorem State.raiseInitError_slot (k : ErrKind) (s : State) : (s.raiseInitError k).slot = s.slot := rfl

/-! ### finishOk -/

@[simp] theorem State.finishOk_frame (s : State) : (s.finishOk).frame = s.frame := rfl
@[simp] theorem State.finishOk_resp (s : State) : (s.finishOk).resp = s.resp := rfl
@[simp] theorem State.finishOk_ocr (s : State) : (s.finishOk).ocr = s.ocr := rfl
@[simp] theorem State.finishOk_attempt (s : State) : (s.finishOk).attempt = s.attempt := rfl
@[simp] theorem State.finishOk_iter (s : State) : (s.finishOk).iter = s.iter := rfl
@[simp] theorem State.finishOk_polls (s : State) : (s.finishOk).polls = s.polls := rfl
@[simp] theorem State.finishOk_bound (s : State) : (s.finishOk).bound = s.bound := rfl
@[simp] theorem State.finishOk_bidx (s : State) : (s.finishOk).bidx = s.bidx := rfl
@[simp] theorem State.finishOk_seq (s : State) : (s.finishOk).seq = .idle := rfl
@[simp] theorem State.finishOk_tph (s : State) : (s.finishOk).tph = s.tph := rfl
@[simp] theorem State.finishOk_cardState (s : State) : (s.finishOk).cardState = .ready := rfl
@[simp] theorem State.finishOk_errKind (s : State) : (s.finishOk).errKind = s.errKind := rfl
@[simp] theorem State.finishOk_cardType (s : State) : (s.finishOk).cardType = s.cardType := rfl
@[simp] theorem State.finishOk_cardTypeValid (s : State) : (s.finishOk).cardTypeValid = s.cardTypeValid := rfl
@[simp] theorem State.finishOk_busSpeed (s : State) : (s.finishOk).busSpeed = s.busSpeed := rfl
@[simp] theorem State.finishOk_sel (s : State) : (s.finishOk).sel = s.sel := rfl
@[simp] theorem State.finishOk_busy (s : State) : (s.finishOk).busy = false := rfl
@[simp] theorem State.finishOk_done (s : State) : (s.finishOk).done = true := rfl
@[simp] theorem State.finishOk_ok (s : State) : (s.finishOk).ok = true := rfl
@[simp] theorem State.finishOk_warnBlklen (s : State) : (s.finishOk).warnBlklen = s.warnBlklen := rfl
@[simp] theorem State.finishOk_start (s : State) : (s.finishOk).start = s.start := rfl
@[simp] theorem State.finishOk_rst (s : State) : (s.finishOk).rst = s.rst := rfl
@[simp] theorem State.finishOk_ack (s : State) : (s.finishOk).ack = s.ack := rfl
@[simp] theorem State.finishOk_rx (s : State) : (s.finishOk).rx = s.rx := rfl
@[simp] theorem State.finishOk_rxCount (s : State) : (s.finishOk).rxCount = s.rxCount := rfl
@[simp] theorem State.finishOk_params (s : State) : (s.finishOk).params = s.params := rfl
@[simp] theorem State.finishOk_events (s : State) : (s.finishOk).events = s.events := rfl
@[simp] theorem State.finishOk_slot (s : State) : (s.finishOk).slot = s.slot := rfl

/-! ### diag: the event only where the sink is there, nothing else -/

@[simp] theorem State.diag_events (code : BitVec 3) (s : State) :
    (s.diag code).events = if s.params.diagSink then .diag code :: s.events else s.events := by
  unfold State.diag; split <;> rfl
@[simp] theorem State.diag_frame (code : BitVec 3) (s : State) : (s.diag code).frame = s.frame := by
  unfold State.diag; split <;> rfl
@[simp] theorem State.diag_resp (code : BitVec 3) (s : State) : (s.diag code).resp = s.resp := by
  unfold State.diag; split <;> rfl
@[simp] theorem State.diag_ocr (code : BitVec 3) (s : State) : (s.diag code).ocr = s.ocr := by
  unfold State.diag; split <;> rfl
@[simp] theorem State.diag_attempt (code : BitVec 3) (s : State) : (s.diag code).attempt = s.attempt := by
  unfold State.diag; split <;> rfl
@[simp] theorem State.diag_iter (code : BitVec 3) (s : State) : (s.diag code).iter = s.iter := by
  unfold State.diag; split <;> rfl
@[simp] theorem State.diag_polls (code : BitVec 3) (s : State) : (s.diag code).polls = s.polls := by
  unfold State.diag; split <;> rfl
@[simp] theorem State.diag_bound (code : BitVec 3) (s : State) : (s.diag code).bound = s.bound := by
  unfold State.diag; split <;> rfl
@[simp] theorem State.diag_bidx (code : BitVec 3) (s : State) : (s.diag code).bidx = s.bidx := by
  unfold State.diag; split <;> rfl
@[simp] theorem State.diag_seq (code : BitVec 3) (s : State) : (s.diag code).seq = s.seq := by
  unfold State.diag; split <;> rfl
@[simp] theorem State.diag_tph (code : BitVec 3) (s : State) : (s.diag code).tph = s.tph := by
  unfold State.diag; split <;> rfl
@[simp] theorem State.diag_cardState (code : BitVec 3) (s : State) : (s.diag code).cardState = s.cardState := by
  unfold State.diag; split <;> rfl
@[simp] theorem State.diag_errKind (code : BitVec 3) (s : State) : (s.diag code).errKind = s.errKind := by
  unfold State.diag; split <;> rfl
@[simp] theorem State.diag_cardType (code : BitVec 3) (s : State) : (s.diag code).cardType = s.cardType := by
  unfold State.diag; split <;> rfl
@[simp] theorem State.diag_cardTypeValid (code : BitVec 3) (s : State) : (s.diag code).cardTypeValid = s.cardTypeValid := by
  unfold State.diag; split <;> rfl
@[simp] theorem State.diag_busSpeed (code : BitVec 3) (s : State) : (s.diag code).busSpeed = s.busSpeed := by
  unfold State.diag; split <;> rfl
@[simp] theorem State.diag_sel (code : BitVec 3) (s : State) : (s.diag code).sel = s.sel := by
  unfold State.diag; split <;> rfl
@[simp] theorem State.diag_busy (code : BitVec 3) (s : State) : (s.diag code).busy = s.busy := by
  unfold State.diag; split <;> rfl
@[simp] theorem State.diag_done (code : BitVec 3) (s : State) : (s.diag code).done = s.done := by
  unfold State.diag; split <;> rfl
@[simp] theorem State.diag_ok (code : BitVec 3) (s : State) : (s.diag code).ok = s.ok := by
  unfold State.diag; split <;> rfl
@[simp] theorem State.diag_warnBlklen (code : BitVec 3) (s : State) : (s.diag code).warnBlklen = s.warnBlklen := by
  unfold State.diag; split <;> rfl
@[simp] theorem State.diag_start (code : BitVec 3) (s : State) : (s.diag code).start = s.start := by
  unfold State.diag; split <;> rfl
@[simp] theorem State.diag_rst (code : BitVec 3) (s : State) : (s.diag code).rst = s.rst := by
  unfold State.diag; split <;> rfl
@[simp] theorem State.diag_ack (code : BitVec 3) (s : State) : (s.diag code).ack = s.ack := by
  unfold State.diag; split <;> rfl
@[simp] theorem State.diag_rx (code : BitVec 3) (s : State) : (s.diag code).rx = s.rx := by
  unfold State.diag; split <;> rfl
@[simp] theorem State.diag_rxCount (code : BitVec 3) (s : State) : (s.diag code).rxCount = s.rxCount := by
  unfold State.diag; split <;> rfl
@[simp] theorem State.diag_params (code : BitVec 3) (s : State) : (s.diag code).params = s.params := by
  unfold State.diag; split <;> rfl
@[simp] theorem State.diag_slot (code : BitVec 3) (s : State) : (s.diag code).slot = s.slot := by
  unfold State.diag; split <;> rfl

/-! ### applyReset: every register as State.reset has it, everything else as it was -/

@[simp] theorem State.applyReset_frame (s : State) : s.applyReset.frame = State.reset.frame := rfl
@[simp] theorem State.applyReset_resp (s : State) : s.applyReset.resp = State.reset.resp := rfl
@[simp] theorem State.applyReset_ocr (s : State) : s.applyReset.ocr = State.reset.ocr := rfl
@[simp] theorem State.applyReset_attempt (s : State) : s.applyReset.attempt = State.reset.attempt := rfl
@[simp] theorem State.applyReset_iter (s : State) : s.applyReset.iter = State.reset.iter := rfl
@[simp] theorem State.applyReset_polls (s : State) : s.applyReset.polls = State.reset.polls := rfl
@[simp] theorem State.applyReset_bound (s : State) : s.applyReset.bound = State.reset.bound := rfl
@[simp] theorem State.applyReset_bidx (s : State) : s.applyReset.bidx = State.reset.bidx := rfl
@[simp] theorem State.applyReset_seq (s : State) : s.applyReset.seq = State.reset.seq := rfl
@[simp] theorem State.applyReset_tph (s : State) : s.applyReset.tph = State.reset.tph := rfl
@[simp] theorem State.applyReset_cardState (s : State) : s.applyReset.cardState = State.reset.cardState := rfl
@[simp] theorem State.applyReset_errKind (s : State) : s.applyReset.errKind = State.reset.errKind := rfl
@[simp] theorem State.applyReset_cardType (s : State) : s.applyReset.cardType = State.reset.cardType := rfl
@[simp] theorem State.applyReset_cardTypeValid (s : State) : s.applyReset.cardTypeValid = State.reset.cardTypeValid := rfl
@[simp] theorem State.applyReset_busSpeed (s : State) : s.applyReset.busSpeed = State.reset.busSpeed := rfl
@[simp] theorem State.applyReset_sel (s : State) : s.applyReset.sel = State.reset.sel := rfl
@[simp] theorem State.applyReset_busy (s : State) : s.applyReset.busy = State.reset.busy := rfl
@[simp] theorem State.applyReset_done (s : State) : s.applyReset.done = State.reset.done := rfl
@[simp] theorem State.applyReset_ok (s : State) : s.applyReset.ok = State.reset.ok := rfl
@[simp] theorem State.applyReset_warnBlklen (s : State) : s.applyReset.warnBlklen = State.reset.warnBlklen := rfl
@[simp] theorem State.applyReset_start (s : State) : s.applyReset.start = s.start := rfl
@[simp] theorem State.applyReset_rst (s : State) : s.applyReset.rst = s.rst := rfl
@[simp] theorem State.applyReset_ack (s : State) : s.applyReset.ack = s.ack := rfl
@[simp] theorem State.applyReset_rx (s : State) : s.applyReset.rx = s.rx := rfl
@[simp] theorem State.applyReset_rxCount (s : State) : s.applyReset.rxCount = s.rxCount := rfl
@[simp] theorem State.applyReset_params (s : State) : s.applyReset.params = s.params := rfl
@[simp] theorem State.applyReset_events (s : State) : s.applyReset.events = s.events := rfl
@[simp] theorem State.applyReset_slot (s : State) : s.applyReset.slot = State.reset.slot := rfl

end Sys2Proof.Machine
end

