-- ==== Sys2Proof/Laws/Ops.lean ====
section
/-!
SUPPORT. One spec lemma per shared operation: the stream of received bytes, the byte loop, the poll loop, a whole
transaction, and the loop over a program point. Proofs cite these in place of unfolding the operations.
-/

namespace Sys2Proof.Machine

/-- The one spelling of the filler in proofs. -/
@[simp] theorem filler_eq : Config.filler = 0xFF#8 := rfl

/-! ## The stream of received bytes -/

theorem State.nextByte_eq (s : State) : s.nextByte = s.byteAt 0 := by
  unfold State.nextByte State.byteAt
  cases s.rx <;> simp

/-- The stream depends on what is listed and on the count alone. -/
theorem State.byteAt_congr {s t : State} (hx : t.rx = s.rx) (hc : t.rxCount = s.rxCount) (j : Nat) :
    t.byteAt j = s.byteAt j := by
  unfold State.byteAt; rw [hx, hc]

/-- After `k` exchanges the stream has moved on by `k`. -/
theorem State.byteAt_shift {s t : State} {k : Nat} (hx : t.rx = s.rx.drop k) (hc : t.rxCount = s.rxCount + k)
    (j : Nat) : t.byteAt j = s.byteAt (k + j) := by
  unfold State.byteAt
  rw [hx, hc, List.getElem?_drop, Nat.add_assoc]

/-- A listed byte is the byte returned. -/
theorem State.byteAt_listed {s : State} {j : Nat} (h : j < s.rx.length) : s.byteAt j = s.rx[j] := by
  unfold State.byteAt; simp [h]

theorem State.xchg_eq (out : Byte) (s : State) : s.xchg out =
    { s with rx := s.rx.drop 1, rxCount := s.rxCount + 1, events := .xchg out (s.byteAt 0) :: s.events } := by
  unfold State.xchg; rw [State.nextByte_eq, List.drop_one]

/-! ## The byte loop -/

/-- The events of bytes sent one after the other, the first of them the `first`-th exchange from `s`, oldest first. -/
def sendEvents (s : State) (first : Nat) : List Byte → List Event
  | [] => []
  | b :: bs => .xchg b (s.byteAt first) :: sendEvents s (first + 1) bs

theorem sendEvents_shift {s t : State} {k : Nat} (hx : t.rx = s.rx.drop k) (hc : t.rxCount = s.rxCount + k)
    (bs : List Byte) (first : Nat) : sendEvents t first bs = sendEvents s (k + first) bs := by
  induction bs generalizing first with
  | nil => rfl
  | cons b bs ih => simp only [sendEvents, ih, State.byteAt_shift hx hc]; rfl

/-- Everything the byte loop does. -/
theorem sendBytes_eq (bs : List Byte) (s : State) : sendBytes bs s =
    { s with
      bidx := s.bidx + BitVec.ofNat 4 bs.length, rx := s.rx.drop bs.length, rxCount := s.rxCount + bs.length,
      events := (sendEvents s 0 bs).reverse ++ s.events } := by
  induction bs generalizing s with
  | nil => simp [sendBytes, sendEvents]
  | cons b bs ih =>
    rw [sendBytes, ih, sendEvents_shift (s := s) (k := 1) (by simp) (by simp)]
    simp only [State.sendXchg, State.xchg_eq, sendEvents, List.length_cons, List.drop_drop, List.reverse_cons,
      List.append_assoc, List.cons_append, List.nil_append, Nat.add_comm 1, Nat.add_assoc]
    congr 1
    rw [BitVec.add_assoc, Nat.add_comm, BitVec.ofNat_add]; rfl

/-! ## The poll loop -/

theorem pollEvents_succ (s t : State) (first k : Nat) (hx : t.rx = s.rx.drop (first + 1))
    (hc : t.rxCount = s.rxCount + (first + 1)) :
    pollEvents s first (k + 1) = .xchg 0xFF (s.byteAt first) :: pollEvents t 0 k := by
  simp only [pollEvents, List.range_succ_eq_map, List.map_cons, List.map_map, Nat.add_zero, Nat.zero_add]
  congr 1
  apply List.map_congr_left
  intro j _
  simp only [Function.comp, State.byteAt_shift hx hc, Nat.succ_eq_add_one]
  congr 2; omega

theorem pollEvents_shift {s t : State} {k : Nat} (hx : t.rx = s.rx.drop k) (hc : t.rxCount = s.rxCount + k)
    (first n : Nat) : pollEvents t first n = pollEvents s (k + first) n := by
  simp only [pollEvents, State.byteAt_shift hx hc, Nat.add_assoc]

theorem PollOutcome.shift {s t : State} {k : Nat} (hx : t.rx = s.rx.drop k) (hc : t.rxCount = s.rxCount + k)
    (first bound n : Nat) (r : Resp) : PollOutcome t first bound n r ↔ PollOutcome s (k + first) bound n r := by
  simp only [PollOutcome, State.byteAt_shift hx hc, Nat.add_assoc]

theorem PollOutcome.le {s : State} {first bound k : Nat} {r : Resp} (h : PollOutcome s first bound k r) :
    k ≤ bound := by
  obtain ⟨h, _⟩ | ⟨j, _, h, _⟩ := h <;> omega

/-- Everything the poll loop does: it makes `k` exchanges and gives the outcome of exactly those. -/
theorem pollLoop_spec (n : Nat) (s : State) : ∃ k r, PollOutcome s 0 n k r ∧ pollLoop n s =
    { s with
      resp := r, polls := s.polls + k, rx := s.rx.drop k, rxCount := s.rxCount + k,
      events := (pollEvents s 0 k).reverse ++ s.events } := by
  induction n generalizing s with
  | zero =>
    refine ⟨0, .noResponse, .inl ⟨rfl, rfl, by simp⟩, ?_⟩
    simp [pollLoop, State.setResp, pollEvents]
  | succ n ih =>
    have hx : s.pollXchg.rx = s.rx.drop (0 + 1) := by simp
    have hc : s.pollXchg.rxCount = s.rxCount + (0 + 1) := by simp
    simp only [pollLoop]
    split
    case isTrue h =>
      rw [State.nextByte_eq, filler_eq] at h
      obtain ⟨k, r, ho, he⟩ := ih s.pollXchg
      refine ⟨k + 1, r, ?_, ?_⟩
      · rw [PollOutcome.shift hx hc] at ho
        obtain ⟨rfl, rfl, ha⟩ | ⟨j, rfl, hl, hb, rfl, ha⟩ := ho
        · refine .inl ⟨rfl, rfl, fun j hj => ?_⟩
          cases j with
          | zero => simpa using h
          | succ j => simpa [Nat.add_comm, Nat.add_left_comm] using ha j (by omega)
        · refine .inr ⟨j + 1, rfl, by omega, by simpa [Nat.add_comm, Nat.add_left_comm] using hb,
            by simp [Nat.add_comm], fun i hi => ?_⟩
          cases i with
          | zero => simpa using h
          | succ i => simpa [Nat.add_comm, Nat.add_left_comm] using ha i (by omega)
      · rw [he, pollEvents_succ s s.pollXchg 0 k hx hc]
        simp [State.pollXchg, State.xchg_eq, Config.filler, Nat.add_comm, Nat.add_left_comm]
    case isFalse h =>
      rw [State.nextByte_eq, filler_eq] at *
      refine ⟨1, .reply (s.byteAt 0), .inr ⟨0, rfl, by omega, by simpa using h, by simp, by simp⟩, ?_⟩
      simp [State.pollXchg, State.xchg_eq, State.setResp, pollEvents, Config.filler, List.range_succ]

/-- Everything a poll does. -/
theorem poll_spec (n : Nat) (s : State) : ∃ k r, PollOutcome s 0 n k r ∧ poll n s =
    { s with
      resp := r, bound := n, polls := k, rx := s.rx.drop k, rxCount := s.rxCount + k,
      events := (pollEvents s 0 k).reverse ++ s.events } := by
  obtain ⟨k, r, ho, he⟩ := pollLoop_spec n (s.startPoll n)
  refine ⟨k, r, by simpa using (PollOutcome.shift (s := s) (k := 0) (by simp) (by simp) ..).mp ho, ?_⟩
  rw [poll, he, pollEvents_shift (s := s) (k := 0) (by simp) (by simp)]
  simp [State.startPoll]

/-! ## A whole transaction -/

theorem frame_toList (f : Vector Byte 6) : f.toList = [f[0], f[1], f[2], f[3], f[4], f[5]] := by
  apply List.ext_getElem
  · simp
  · intro i h₁ h₂
    simp only [List.length_cons, List.length_nil] at h₂
    obtain rfl | rfl | rfl | rfl | rfl | rfl : i = 0 ∨ i = 1 ∨ i = 2 ∨ i = 3 ∨ i = 4 ∨ i = 5 := by omega
    all_goals simp

/-- Everything a transaction does. -/
theorem transact_spec (c : Command) (s : State) : ∃ k r, PollOutcome s 7 (s.pollBoundOf c.index) k r ∧
    transact c s = afterTransaction s c.frame (s.pollBoundOf c.index) k r := by
  set s' := sendBytes c.frame.toList (((s.writeFrame c.frame).selAssert.xchg Config.filler).setBidx 0) with hs'
  obtain ⟨k, r, ho, he⟩ := poll_spec (s'.pollBoundOf c.index) s'
  have hx : s'.rx = s.rx.drop 7 := by simp [hs', sendBytes_eq]
  have hc : s'.rxCount = s.rxCount + 7 := by simp [hs', sendBytes_eq, Nat.add_assoc]
  have hb : s'.pollBoundOf c.index = s.pollBoundOf c.index := by simp [hs', sendBytes_eq, State.pollBoundOf]
  rw [PollOutcome.shift hx hc, hb] at ho
  refine ⟨k, r, ho, ?_⟩
  have ht : transact c s =
      ((poll (s'.pollBoundOf c.index) s').selDeassert.xchg Config.filler).enterPhase .none := rfl
  rw [ht, he, pollEvents_shift hx hc, hb, hs', sendBytes_eq, sendEvents_shift (s := s) (k := 1) (by simp) (by simp),
    frame_toList]
  simp [afterTransaction, State.xchg_eq, State.selDeassert, State.enterPhase, State.writeFrame, State.selAssert,
    State.setBidx, transactionEvents, sendEvents]
  simp only [State.byteAt, List.getElem?_drop, Nat.add_assoc, Nat.add_comm 1, Nat.zero_add]
  refine ⟨by rw [show 7 + (k + 1) = 8 + k by omega], by omega, ?_, trivial⟩
  rw [show 6 + (k + 1) = 7 + k by omega, Nat.add_zero]

/-- A transaction that receives `l` gives the result of `l` and consumes exactly `l`. -/
theorem transact_of_answers {c : Command} {s : State} {r : Resp} {l rest : List Byte}
    (ha : Answers (s.pollBoundOf c.index) r l) (hx : s.rx = l ++ rest) :
    (transact c s).resp = r ∧ (transact c s).rx = rest ∧ (transact c s).rxCount = s.rxCount + l.length := by
  obtain ⟨k, r', ho, he⟩ := transact_spec c s
  obtain ⟨lead, last, hl, ⟨rfl, rfl⟩ | ⟨late, b, hlt, hb, rfl, rfl⟩⟩ := ha
  · have hf : ∀ j < s.pollBoundOf c.index, s.byteAt (7 + j) = 0xFF := fun j hj => by
      simp [State.byteAt, hx, List.getElem?_append, hl, hj]
    obtain ⟨rfl, rfl, -⟩ | ⟨j, rfl, hk, hne, -, -⟩ := ho
    · rw [he]
      refine ⟨rfl, ?_, ?_⟩
      · show s.rx.drop _ = _
        rw [hx]
        apply List.drop_left'; simp [hl]; omega
      · show s.rxCount + _ = _
        simp [hl]; omega
    · exact absurd (hf j (by omega)) hne
  · have hf : ∀ j < late, s.byteAt (7 + j) = 0xFF := fun j hj => by
      simp [State.byteAt, hx, List.getElem?_append, hl, hj]
    have hn : s.byteAt (7 + late) = b := by
      simp [State.byteAt, hx, hl]
    obtain ⟨rfl, rfl, hall⟩ | ⟨j, rfl, hk, hne, rfl, hbe⟩ := ho
    · exact absurd (hn ▸ hall late hlt) hb
    · obtain rfl : j = late := by
        rcases Nat.lt_trichotomy j late with h | h | h
        · exact absurd (hf j h) hne
        · exact h
        · exact absurd (hn ▸ hbe late h) hb
      rw [he]
      refine ⟨by rw [← hn]; rfl, ?_, ?_⟩
      · show s.rx.drop _ = _
        rw [hx]
        apply List.drop_left'; simp [hl]; omega
      · show s.rxCount + _ = _
        simp [hl]; omega

end Sys2Proof.Machine
end

