-- ==== Sys2Proof/Laws/PerInstr.lean ====
section
/-!
SUPPORT. One law per operation: how many bytes its words have is the width of its row's format (30_encoding.md R90, R95,
R96, R100, R104; spec/opcode_table.json).
-/

namespace Sys2Proof

/-- The number of bytes of a format (the one bit of HOST_START counts as one). -/
def Port.width : Port → Nat
  | .frame => 6
  | .framePair => 12
  | .transaction => 7
  | .poll _ => 1
  | .hostStart => 1
  | .response => 1
  | .ocrReply => 4

namespace Laws.PortWidth

/-- The encoded operation has exactly the bytes of its format. -/
def Statement (i : Instr) : Prop := (encode i).bytes.length = (encode i).port.width

theorem cmd0 : Statement .cmd0 := rfl
theorem cmd8 : Statement .cmd8 := rfl
theorem cmd55 (crc : Byte) : Statement (.cmd55 crc) := rfl
theorem cmd41 (crc : Byte) : Statement (.cmd41 crc) := rfl
theorem cmd58 (crc : Byte) : Statement (.cmd58 crc) := rfl
theorem cmd16 (crc : Byte) : Statement (.cmd16 crc) := rfl
theorem acmd41 (crc : Byte) : Statement (.acmd41 crc) := rfl
theorem buildFrame (index : Index) (argument : Arg) (checksum : Byte) :
    Statement (.buildFrame index argument checksum) := rfl
theorem sendCommand (index : Index) (argument : Arg) (checksum : Byte) :
    Statement (.sendCommand index argument checksum) := rfl
theorem pollResponse (maxAttempts : Nat) : Statement (.pollResponse maxAttempts) := rfl
theorem initializeCard : Statement .initializeCard := rfl
theorem respFiller : Statement .respFiller := rfl
theorem respReady : Statement .respReady := rfl
theorem respIdle : Statement .respIdle := rfl
theorem respOther (r : Byte) : Statement (.respOther r) := rfl
theorem ocr (word : BitVec 32) : Statement (.ocr word) := rfl

end Laws.PortWidth

end Sys2Proof
end

