-- ==== Sys2Proof/Laws/Step.lean ====
section
/-!
SUPPORT. What one step is, case by case: one equation per program point, phase and check, so that proofs rewrite with the
case they are in and never unfold the sequencer; and how steps compose.
-/

namespace Sys2Proof.Machine

/-! ## The step -/

theorem step_reset {s : State} (h : s.rst = true) : step s = .next s.applyReset := by
  simp [step, h]

theorem step_tick {s : State} (hr : s.rst = false) (hs : s.slot = none) : step s = .next (tick s) := by
  simp [step, fetch, hr, hs]

theorem step_slot {s : State} {p : Packet} {i : Instr} (hr : s.rst = false) (hs : s.slot = some p)
    (hd : decode p = .ok i) : step s = exec i s.takeSlot := by
  simp [step, fetch, hr, hs, hd]

theorem step_live {s : State} (h : s.Live) : step s = .next (advance s) := by
  rw [step_tick h.1 h.2.1, tick, h.2.2]; simp

/-- A step that gives a next state is a reset, an operation from the slot, or the sequencer. -/
theorem step_cases {s t : State} (h : step s = .next t) :
    (s.rst = true ∧ t = s.applyReset) ∨
    (s.rst = false ∧ ∃ p i, s.slot = some p ∧ decode p = .ok i ∧ exec i s.takeSlot = .next t) ∨
    (s.rst = false ∧ s.slot = none ∧ t = tick s) := by
  unfold step at h
  split at h
  case isTrue hr => exact .inl ⟨hr, by injection h with h; exact h.symm⟩
  case isFalse hr =>
    have hr : s.rst = false := by simpa using hr
    unfold fetch at h
    cases hs : s.slot with
    | none => rw [hs] at h; exact .inr (.inr ⟨hr, rfl, by injection h with h; exact h.symm⟩)
    | some p =>
      rw [hs] at h
      cases hd : decode p with
      | ok i => exact .inr (.inl ⟨hr, p, i, rfl, hd, by simpa [hd] using h⟩)
      | error e => simp [hd] at h

/-- A step of the sequencer either waits, unchanged, or advances. -/
theorem tick_cases (s : State) :
    (tick s = s ∧ s.request ≠ none ∧ s.ack = false) ∨ (tick s = advance s ∧ (s.request = none ∨ s.ack = true)) := by
  unfold tick
  cases s.request <;> cases s.ack <;> simp

/-! ## Program points that issue a command -/

theorem isTransaction_iff {s : State} :
    s.seq.isTransaction = true ↔ ∃ c, pointCommand s.params s.seq = some c := by
  cases s.seq <;> simp [Seq.isTransaction, pointCommand]

theorem advance_transaction {s : State} {c : Command} (h : pointCommand s.params s.seq = some c) :
    advance s = advanceTransaction c s := by
  revert h; unfold advance pointCommand
  cases s.seq <;> simp <;> rintro rfl <;> rfl

theorem request_transaction {s : State} (h : s.seq.isTransaction = true) : s.request = s.phaseRequest := by
  revert h; unfold State.request Seq.isTransaction
  cases s.seq <;> simp

/-! ## One equation per phase -/

section
variable {s : State} (c : Command)

theorem advanceTransaction_none (h : s.tph = .none) :
    advanceTransaction c s = (s.writeFrame c.frame).enterPhase .assert := by
  unfold advanceTransaction; rw [h]

theorem advanceTransaction_assert (h : s.tph = .assert) :
    advanceTransaction c s = s.selAssert.enterPhase .settle := by
  unfold advanceTransaction; rw [h]

theorem advanceTransaction_settle (h : s.tph = .settle) :
    advanceTransaction c s = ((s.xchg Config.filler).setBidx 0).enterPhase .frame := by
  unfold advanceTransaction; rw [h]

theorem advanceTransaction_frame (h : s.tph = .frame) : advanceTransaction c s = advanceFrame c s := by
  unfold advanceTransaction; rw [h]

theorem advanceTransaction_poll (h : s.tph = .poll) : advanceTransaction c s = advancePoll s := by
  unfold advanceTransaction; rw [h]

theorem advanceTransaction_deassert (h : s.tph = .deassert) :
    advanceTransaction c s = s.selDeassert.enterPhase .trail := by
  unfold advanceTransaction; rw [h]

theorem advanceTransaction_trail (h : s.tph = .trail) :
    advanceTransaction c s = check ((s.xchg Config.filler).enterPhase .none) := by
  unfold advanceTransaction; rw [h]

/-- The call raised in each phase. -/
theorem phaseRequest_none (h : s.tph = .none) : s.phaseRequest = none := by
  unfold State.phaseRequest; rw [h]

theorem phaseRequest_frame (h : s.tph = .frame) : s.phaseRequest = s.frameByte.map .xchg := by
  unfold State.phaseRequest; rw [h]

theorem phaseRequest_poll (h : s.tph = .poll) :
    s.phaseRequest = if s.polls < s.bound then some (.xchg Config.filler) else none := by
  unfold State.phaseRequest; rw [h]

end

/-! ## One equation per program point without a command -/

section
variable {s : State}

theorem advance_idle (h : s.seq = .idle) : advance s = if s.start then s.acceptStart else s := by
  unfold advance; rw [h]

theorem advance_s1Speed (h : s.seq = .s1Speed) : advance s = s.speedInit.goto .s1Delay := by
  unfold advance; rw [h]

theorem advance_s1Delay (h : s.seq = .s1Delay) :
    advance s = ((s.delay Config.powerupDelayMs).setBidx 0).goto .s1Clocks := by
  unfold advance; rw [h]

theorem advance_s1Clocks (h : s.seq = .s1Clocks) : advance s = advanceClocks s := by
  unfold advance; rw [h]

theorem advance_s5Ocrbytes (h : s.seq = .s5Ocrbytes) : advance s = advanceOcr s := by
  unfold advance; rw [h]

theorem advance_s6Classify (h : s.seq = .s6Classify) : advance s = classify s := by
  unfold advance; rw [h]

theorem advance_s8Speed (h : s.seq = .s8Speed) : advance s = finalizeSpeed s := by
  unfold advance; rw [h]

theorem advance_s8Desel (h : s.seq = .s8Desel) : advance s = finalizeDesel s := by
  unfold advance; rw [h]

/-! ## One equation per check -/

theorem check_s2Reset (h : s.seq = .s2Reset) : check s = checkReset s := by
  unfold check; rw [h]

theorem check_s3Ifcond (h : s.seq = .s3Ifcond) : check s = checkIfcond s := by
  unfold check; rw [h]

theorem check_s4App (h : s.seq = .s4App) : check s = checkApp s := by
  unfold check; rw [h]

theorem check_s4Opcond (h : s.seq = .s4Opcond) : check s = checkOpcond s := by
  unfold check; rw [h]

theorem check_s5Ocrcmd (h : s.seq = .s5Ocrcmd) : check s = checkOcrcmd s := by
  unfold check; rw [h]

theorem check_s7Blklen (h : s.seq = .s7Blklen) : check s = checkBlklen s := by
  unfold check; rw [h]

/-- A point that issues no command has no check. -/
theorem check_other (h : s.seq.isTransaction = false) : check s = s := by
  revert h; unfold check; cases s.seq <;> simp [Seq.isTransaction]

end

/-- A response equals a code exactly if it is that reply (10_state.md R22). -/
theorem Resp.is_iff (r : Resp) (c : Byte) : r.is c = true ↔ r = ⟨false, c⟩ := by
  obtain ⟨n, b⟩ := r
  cases n <;> simp [Resp.is]

/-- A check changes neither the phase, the select record, the speed, the frame nor the response. -/
theorem check_kept (s : State) : (check s).tph = s.tph ∧ (check s).sel = s.sel ∧ (check s).busSpeed = s.busSpeed ∧
    (check s).frame = s.frame ∧ (check s).resp = s.resp ∧ (check s).params = s.params := by
  unfold check checkReset checkIfcond checkApp checkOpcond checkOcrcmd checkBlklen State.diag
  split <;> (try dsimp only) <;> (try split_ifs) <;> simp

/-! ## Parts of a transaction -/

/-- The poll loop does not look at the phase. -/
theorem pollLoop_enterPhase (n : Nat) (p : Phase) (s : State) :
    pollLoop n (s.enterPhase p) = (pollLoop n s).enterPhase p := by
  induction n generalizing s with
  | zero => rfl
  | succ n ih =>
    have hn : (s.enterPhase p).nextByte = s.nextByte := rfl
    simp only [pollLoop, hn]
    split_ifs
    · exact ih s.pollXchg
    · rfl

/-- A transaction ends outside any phase, deselected, at the program point it began at. -/
theorem transact_kept (c : Command) (s : State) : (transact c s).tph = .none ∧ (transact c s).sel = false ∧
    (transact c s).seq = s.seq ∧ (transact c s).params = s.params := by
  obtain ⟨k, r, _, h⟩ := transact_spec c s
  rw [h]; exact ⟨rfl, rfl, rfl, rfl⟩

/-! ## Received bytes -/

/-- Every RESP row is the receipt of its byte. -/
theorem exec_received {i : Instr} {b : Byte} (h : receivedByte i = some b) (s : State) :
    exec i s = .next (receive b s) := by
  cases i <;> simp [receivedByte] at h <;> subst h <;> rfl

/-- Where an exchange is raised, the receipt of a byte completes it with that byte. -/
theorem receive_exchange {b tx : Byte} {s : State} (h : s.request = some (.xchg tx)) :
    receive b s = advance (s.offer [b]) := by
  unfold receive; rw [h]

/-! ## Loops over a program point -/

theorem whileAt_of_ne {p : Seq} {body : State → State} {n : Nat} {s : State} (h : s.seq ≠ p) :
    whileAt p body n s = s := by
  cases n <;> simp [whileAt, h]

/-- What every turn keeps, the loop keeps. -/
theorem whileAt_keeps {p : Seq} {body : State → State} {P : State → Prop}
    (hb : ∀ s, P s → s.seq = p → P (body s)) (n : Nat) {s : State} (h : P s) : P (whileAt p body n s) := by
  induction n generalizing s with
  | zero => exact h
  | succ n ih =>
    rw [whileAt]
    split
    case isTrue hp => exact ih (hb s h hp)
    case isFalse => exact h

/-- A loop with enough turns is left: `m` falls with every turn that stays. -/
theorem whileAt_leaves {p : Seq} {body : State → State} {P : State → Prop} {m : State → Nat}
    (hb : ∀ s, P s → s.seq = p → P (body s) ∧ ((body s).seq = p → m (body s) < m s)) (n : Nat) {s : State}
    (h : P s) (hm : m s < n) : (whileAt p body n s).seq ≠ p := by
  induction n generalizing s with
  | zero => omega
  | succ n ih =>
    rw [whileAt]
    split
    case isFalse hp => exact hp
    case isTrue hp =>
      obtain ⟨hP, hlt⟩ := hb s h hp
      by_cases hq : (body s).seq = p
      · exact ih hP (by have := hlt hq; omega)
      · rw [whileAt_of_ne hq]; exact hq

/-! ## Runs -/

theorem run_zero (s : State) : core.run 0 s = .next s := rfl

theorem run_succ {n : Nat} {s t : State} (h : step s = .next t) : core.run (n + 1) s = core.run n t := by
  have h : core.step s = .next t := h
  simp only [Host.Core.run, h]

theorem run_one {s t : State} (h : step s = .next t) : core.run 1 s = .next t :=
  run_succ h

theorem run_add {m n : Nat} {s t : State} (h : core.run m s = .next t) : core.run (m + n) s = core.run n t := by
  induction m generalizing s with
  | zero => injection h with h; rw [Nat.zero_add]; exact congrArg _ h
  | succ m ih =>
    rw [Nat.succ_add]
    cases hs : core.step s with
    | next u =>
      simp only [Host.Core.run, hs] at h ⊢
      exact ih h
    | fault r => exact nomatch (show Fault from r)
    | refused r => simp [Host.Core.run, hs] at h

end Sys2Proof.Machine
end

