-- ==== Sys2Proof/Tests/Slice0.lean ====
section
/-!
SUPPORT. Tests: the well-formedness smoke test, words written out from spec/opcode_table.json and 30_encoding.md, one step
or one operation on vectors of 95_test_vectors.md (FV, Q, T, SV, O, EV, HV), and for every statement with hypotheses a
state that meets them. Expected results come from the spec.
-/

namespace Sys2Proof.Tests

open Sys2Proof.Machine

/-! ## Helpers -/

/-- Reset with the reference parameters of 00_scope.md R7 and bytes the card returns. -/
def ref (rx : List Byte) : State :=
  { State.reset with params := ⟨0xFF, Vector.replicate 64 8, true⟩, rx := rx }

/-- A state at a program point, in a phase, with a Card State, within a run. -/
def inRun (p : Seq) (t : Phase) (c : CardState) : State :=
  { ref [] with seq := p, tph := t, cardState := c, busy := true, sel := t.selected }

/-- The next state's view, none where there is no next state. -/
def view {α : Type} (f : State → α) : Host.Outcome State Fault Refusal → Option α
  | .next s => some (f s)
  | .fault _ => none
  | .refused _ => none

/-- The byte sent by an exchange. -/
def sentByte : Event → Option Byte
  | .xchg out _ => some out
  | .selAssert => none
  | .selDeassert => none
  | .speedInit => none
  | .speedOper => none
  | .delay _ => none
  | .diag _ => none

/-- What a transaction answered in poll byte 1 receives. -/
def answered (r : Byte) : List Byte := List.replicate 7 0xFF ++ [r, 0xFF]

/-! ## Well-formed -/

theorem test_generic_row_is_not_cmd0 : (Instr.buildFrame 0 0x00000000 0x95).wellFormed = false := by decide
theorem test_generic_row_is_not_cmd8 : (Instr.buildFrame 8 0x000001AA 0x87).wellFormed = false := by decide
theorem test_generic_row_is_not_cmd55 : (Instr.buildFrame 55 0x00000000 0x12).wellFormed = false := by decide
theorem test_generic_row_is_not_cmd41 : (Instr.buildFrame 41 0x40000000 0x12).wellFormed = false := by decide
theorem test_generic_row_is_not_cmd58 : (Instr.buildFrame 58 0x00000000 0x12).wellFormed = false := by decide
theorem test_generic_row_is_not_cmd16 : (Instr.buildFrame 16 0x00000200 0x12).wellFormed = false := by decide
theorem test_other_row_is_not_filler : (Instr.respOther 0xFF).wellFormed = false := by decide
theorem test_other_row_is_not_ready : (Instr.respOther 0x00).wellFormed = false := by decide
theorem test_other_row_is_not_idle : (Instr.respOther 0x01).wellFormed = false := by decide

/-! ## Decoding: the words of 30_encoding.md R94 to R96, R100, R104 and the table -/

theorem test_decode_cmd0 : decode ⟨.frame, [0x40, 0x00, 0x00, 0x00, 0x00, 0x95]⟩ = .ok .cmd0 := by decide
theorem test_decode_cmd8 : decode ⟨.frame, [0x48, 0x00, 0x00, 0x01, 0xAA, 0x87]⟩ = .ok .cmd8 := by decide
theorem test_decode_cmd55 : decode ⟨.frame, [0x77, 0x00, 0x00, 0x00, 0x00, 0xFF]⟩ = .ok (.cmd55 0xFF) := by decide
theorem test_decode_cmd41 : decode ⟨.frame, [0x69, 0x40, 0x00, 0x00, 0x00, 0xFF]⟩ = .ok (.cmd41 0xFF) := by decide
theorem test_decode_cmd58 : decode ⟨.frame, [0x7A, 0x00, 0x00, 0x00, 0x00, 0xFF]⟩ = .ok (.cmd58 0xFF) := by decide
theorem test_decode_cmd16 : decode ⟨.frame, [0x50, 0x00, 0x00, 0x02, 0x00, 0xFF]⟩ = .ok (.cmd16 0xFF) := by decide
theorem test_decode_acmd41 :
    decode ⟨.framePair, [0x77, 0, 0, 0, 0, 0x5A, 0x69, 0x40, 0, 0, 0, 0x5A]⟩ = .ok (.acmd41 0x5A) := by decide
/-- FV9. -/
theorem test_decode_buildFrame :
    decode ⟨.frame, [0x51, 0x12, 0x34, 0x56, 0x78, 0xAB]⟩ = .ok (.buildFrame 17 0x12345678 0xAB) := by decide
/-- FV7: with another checksum than `CRC_CMD0` the frame of index 0 is the generic row. -/
theorem test_decode_fallback :
    decode ⟨.frame, [0x40, 0x00, 0x00, 0x00, 0x00, 0x00]⟩ = .ok (.buildFrame 0 0 0) := by decide
/-- T4. -/
theorem test_decode_sendCommand : decode ⟨.transaction, [0xFF, 0x50, 0x00, 0x00, 0x02, 0x00, 0xFF]⟩ =
    .ok (.sendCommand 16 512 0xFF) := by decide
theorem test_decode_pollResponse : decode ⟨.poll 8, [0xFF]⟩ = .ok (.pollResponse 8) := by decide
theorem test_decode_initializeCard : decode ⟨.hostStart, [1]⟩ = .ok .initializeCard := by decide
theorem test_decode_respFiller : decode ⟨.response, [0xFF]⟩ = .ok .respFiller := by decide
theorem test_decode_respReady : decode ⟨.response, [0x00]⟩ = .ok .respReady := by decide
theorem test_decode_respIdle : decode ⟨.response, [0x01]⟩ = .ok .respIdle := by decide
theorem test_decode_respOther : decode ⟨.response, [0x05]⟩ = .ok (.respOther 0x05) := by decide
/-- O8. -/
theorem test_decode_ocr : decode ⟨.ocrReply, [0x12, 0x34, 0x56, 0x78]⟩ = .ok (.ocr 0x12345678) := by decide

theorem test_reject_short : decode ⟨.frame, [0x40, 0, 0, 0, 0]⟩ = .error .wrongLength := by decide
/-- Not in the range of `buildFrame` (95_test_vectors.md 2.1). -/
theorem test_reject_start_low : decode ⟨.frame, [0x00, 0, 0, 0, 0, 0x95]⟩ = .error .badStartBits := by decide
theorem test_reject_start_high : decode ⟨.frame, [0xC0, 0, 0, 0, 0, 0x95]⟩ = .error .badStartBits := by decide
theorem test_reject_settle : decode ⟨.transaction, [0xFE, 0x40, 0, 0, 0, 0, 0x95]⟩ = .error .badSettleByte := by decide
theorem test_reject_poll : decode ⟨.poll 8, [0x00]⟩ = .error .badPollByte := by decide
theorem test_reject_start : decode ⟨.hostStart, [0]⟩ = .error .startNotRaised := by decide
theorem test_reject_pair : decode ⟨.framePair, [0x69, 0x40, 0, 0, 0, 1, 0x77, 0, 0, 0, 0, 1]⟩ = .error .notAcmd41 := by
  decide
theorem test_reject_checksums : decode ⟨.framePair, [0x77, 0, 0, 0, 0, 1, 0x69, 0x40, 0, 0, 0, 2]⟩ =
    .error .checksumsDiffer := by decide

/-! ## The opcode table's numbers, run as the first operation after reset -/

theorem test_table_acmd41 :
    decodeTableWord 96 0x77000000005A69400000005A = some (.acmd41 0x5A) := by decide
theorem test_table_sendCommand : decodeTableWord 56 0xFF5112345678AB = some (.sendCommand 17 0x12345678 0xAB) := by
  decide
theorem test_table_start : decodeTableWord 1 1 = some .initializeCard := by decide
theorem test_table_other_width : decodeTableWord 16 0xFFFF = none := by decide
theorem test_fetch_cmd0 :
    step (State.reset.withFetchWord 48 0x400000000095) = exec .cmd0 State.reset := rfl
theorem test_fetch_ocr : step (State.reset.withFetchWord 32 0x40000000) = .next State.reset := rfl
theorem test_fetch_undecodable :
    step (State.reset.withFetchWord 48 0) = .refused (.undecodable .badStartBits) := rfl

/-! ## Framer: FV8, FV10 -/

theorem test_fv8 : view State.frame (exec (.buildFrame 63 0xFFFFFFFF 0x00) (ref [])) =
    some #v[0x7F, 0xFF, 0xFF, 0xFF, 0xFF, 0x00] := by decide
theorem test_fv10 : view State.frame (exec (.buildFrame 63 0x80000001 0xFF) (ref [])) =
    some #v[0x7F, 0x80, 0x00, 0x00, 0x01, 0xFF] := by decide

/-! ## Poller: Q5, Q7 -/

theorem test_q5 : view (fun t => (t.resp, t.polls, t.rx)) (exec (.pollResponse 8) (ref [0xFF, 0xFF, 0x01, 0x02])) =
    some (⟨false, 0x01⟩, 3, [0x02]) := by decide
theorem test_q7 : view (fun t => (t.resp, t.polls, t.rx))
    (exec (.pollResponse 8) (ref (List.replicate 8 0xFF ++ [0x01]))) = some (⟨true, 0xFF⟩, 8, [0x01]) := by decide

/-! ## Transactions: T2, T5, T6 and the frames of R94 -/

theorem test_t2 : view (fun t => t.events.reverse)
    (exec (.sendCommand 0 0 0x95) (ref (List.replicate 8 0xFF ++ [0x01, 0xFF]))) =
    some [.selAssert, .xchg 0xFF 0xFF, .xchg 0x40 0xFF, .xchg 0x00 0xFF, .xchg 0x00 0xFF, .xchg 0x00 0xFF,
      .xchg 0x00 0xFF, .xchg 0x95 0xFF, .xchg 0xFF 0xFF, .xchg 0xFF 0x01, .selDeassert, .xchg 0xFF 0xFF] := by decide
theorem test_t5 : view (fun t => (t.resp, t.rxCount, t.sel))
    (exec (.sendCommand 58 0 0xFF) { ref (answered 0x00) with params := ⟨0xFF, Vector.replicate 64 0, true⟩ }) =
    some (⟨true, 0xFF⟩, 8, false) := by decide
theorem test_cmd0 : view (fun t => (t.frame, t.resp)) (exec .cmd0 (ref (answered 0x01))) =
    some (#v[0x40, 0, 0, 0, 0, 0x95], ⟨false, 0x01⟩) := by decide
theorem test_cmd8 : view (fun t => (t.frame, t.resp)) (exec .cmd8 (ref (List.replicate 16 0xFF))) =
    some (#v[0x48, 0, 0, 0x01, 0xAA, 0x87], ⟨true, 0xFF⟩) := by decide
theorem test_cmd55 : view (fun t => (t.frame, t.polls)) (exec (.cmd55 0xFF) (ref (answered 0x05))) =
    some (#v[0x77, 0, 0, 0, 0, 0xFF], 1) := by decide
/-- T6: the seven early `01` are discarded. -/
theorem test_t6 : view (fun t => (t.frame, t.resp))
    (exec (.cmd41 0xFF) (ref (List.replicate 7 0x01 ++ [0x00, 0xFF]))) =
    some (#v[0x69, 0x40, 0, 0, 0, 0xFF], ⟨false, 0x00⟩) := by decide
theorem test_cmd58 : view (fun t => (t.frame, t.bidx)) (exec (.cmd58 0xFF) (ref (answered 0x00))) =
    some (#v[0x7A, 0, 0, 0, 0, 0xFF], 6) := by decide
/-- T4. -/
theorem test_cmd16 : view (fun t => (t.frame, t.resp, t.warnBlklen)) (exec (.cmd16 0xFF) (ref (answered 0x04))) =
    some (#v[0x50, 0, 0, 0x02, 0, 0xFF], ⟨false, 0x04⟩, false) := by decide
/-- The bytes of both transactions in order, and nothing between them (R104). -/
theorem test_acmd41 : view (fun t => t.events.reverse.filterMap sentByte)
    (exec (.acmd41 0xFF) (ref (answered 0x01 ++ answered 0x00))) =
    some [0xFF, 0x77, 0, 0, 0, 0, 0xFF, 0xFF, 0xFF, 0xFF, 0x69, 0x40, 0, 0, 0, 0xFF, 0xFF, 0xFF] := by decide

/-! ## Received bytes: R95, and the OCR: O1, O4 -/

/-- A poll with one exchange left, in step 2. -/
def polling : State := { inRun .s2Reset .poll .uninitialized with polls := 7, bound := 8 }

theorem test_respFiller : view (fun t => (t.polls, t.tph)) (exec .respFiller polling) = some (8, .poll) := by decide
theorem test_respReady : view (fun t => (t.resp, t.tph)) (exec .respReady polling) =
    some (⟨false, 0x00⟩, .deassert) := by decide
theorem test_respIdle : view (fun t => (t.resp, t.tph)) (exec .respIdle polling) =
    some (⟨false, 0x01⟩, .deassert) := by decide
theorem test_respOther : view (fun t => (t.resp, t.tph)) (exec (.respOther 0x80) polling) =
    some (⟨false, 0x80⟩, .deassert) := by decide
theorem test_o1 : view (fun t => (t.ocr, t.cardType)) (exec (.ocr 0x40000000)
    (inRun .s5Ocrbytes .none .voltageNegotiated)) = some (0x40000000, .sdhc) := by decide
theorem test_o4 : view (fun t => (t.ocr, t.cardType)) (exec (.ocr 0xBFFFFFFF)
    (inRun .s5Ocrbytes .none .voltageNegotiated)) = some (0xBFFFFFFF, .sdv2) := by decide

/-! ## The sequencer: SV7 and EV1, HV1 to HV3, CT8 -/

/-- SV7 and CT8: `CMD8` answered `05`, 28 exchanges. -/
theorem test_sv7 : view (fun t => (t.result, t.rxCount)) (exec .initializeCard
    (ref (List.replicate 10 0xFF ++ answered 0x01 ++ answered 0x05))) =
    some (some (.error .unsupportedCard), 28) := by decide
/-- SV17 with one iteration (as SV11), CT1: `Ok(SDHC)` with a warning, 68 exchanges. -/
theorem test_sv17 : view (fun t => (t.result, t.warnBlklen, t.rxCount)) (exec .initializeCard
    (ref (List.replicate 10 0xFF ++ answered 0x01 ++ answered 0x01 ++ answered 0x01 ++ answered 0x00 ++ answered 0x00 ++
      [0x40, 0, 0, 0] ++ answered 0x04))) = some (some (.ok .sdhc), true, 68) := by decide
/-- EV1, in one step: the release byte of a `CMD8` whose response was `05`. -/
theorem test_ev1 : view (fun t => (t.cardState.code, t.errKind.code, t.done, t.seq.code))
    (step { inRun .s3Ifcond .trail .reset with rx := [0xFF], resp := ⟨false, 0x05⟩ }) = some (7, 2, true, 0) := by decide
/-- HV3: reset after a successful run. -/
theorem test_hv3 : view (fun t => (t.busSpeed, t.cardState, t.done, t.events)) (step { ref [] with
    busSpeed := .operational, cardState := .ready, done := true, ok := true, cardTypeValid := true, rst := true }) =
    some (.init, .uninitialized, false, []) := by decide
/-- EV5: `start` during a run has no effect on the program point. -/
theorem test_ev5 : view (fun t => t.seq) (step { inRun .s1Speed .none .uninitialized with start := true }) =
    some .s1Delay := by decide

/-! ## Witnesses: a state that meets the hypotheses of each statement that has some -/

theorem test_witness_DecodeEncodeRoundTrip :
    ∀ i ∈ [Instr.cmd0, .buildFrame 0 0 0x94, .buildFrame 63 0xFFFFFFFF 0xFF, .respOther 0x02, .respOther 0xFE],
      i.wellFormed = true := by decide
theorem test_witness_DecodedWordsHaveOneSpelling : decode ⟨.frame, [0x7F, 0, 0, 0, 0, 0]⟩ = .ok (.buildFrame 63 0 0) := by
  decide
theorem test_witness_SilentPollGivesNoResponse_zero : (ref [0x01]).rx = List.replicate 0 0xFF ++ [0x01] := by decide
theorem test_witness_SilentPollGivesNoResponse : (ref [0xFF, 0xFF, 0x01]).rx = List.replicate 2 0xFF ++ [0x01] := by
  decide
theorem test_witness_PollStopsAtTheFirstReply_first :
    0 < 1 ∧ (0xFE : Byte) ≠ 0xFF ∧ (ref [0xFE]).rx = List.replicate 0 0xFF ++ 0xFE :: [] := by decide
theorem test_witness_PollStopsAtTheFirstReply_last :
    7 < 8 ∧ (0x00 : Byte) ≠ 0xFF ∧ (ref (List.replicate 7 0xFF ++ [0x00])).rx = List.replicate 7 0xFF ++ 0x00 :: [] := by
  decide
theorem test_witness_ReceivedByteDuringAPoll :
    polling.seq.isTransaction = true ∧ polling.tph = .poll ∧ polling.polls < polling.bound ∧ (0xFE : Byte) ≠ 0xFF := by
  decide
/-- After the last of eight fillers, and at bound 0. -/
theorem test_witness_PollEndsAtItsBound : ∀ n ∈ [0, 8], ∃ s : State, s.rst = false ∧ s.slot = none ∧
    s.seq.isTransaction = true ∧ s.tph = .poll ∧ s.bound ≤ s.polls ∧ s.bound = n := by
  intro n _
  exact ⟨{ polling with polls := n, bound := n }, rfl, rfl, rfl, rfl, Nat.le_refl n, rfl⟩
theorem test_witness_NoExchangeNoByte : ∀ tx, (ref []).request ≠ some (.xchg tx) := by decide
theorem test_witness_NoExchangeNoByte_select :
    ∀ tx, (inRun .s2Reset .assert .uninitialized).request ≠ some (.xchg tx) := by decide
theorem test_witness_ExchangeStepIsTheRowOfItsByte_poll : ∃ s : State, s.Live ∧ s.request = some (.xchg 0xFF) ∧
    receivedByte .respIdle = some 0x01 ∧ s.rx = [0x01] :=
  ⟨{ polling with rx := [0x01] }, ⟨rfl, rfl, rfl⟩, by decide⟩
theorem test_witness_ExchangeStepIsTheRowOfItsByte_clocks : ∃ s : State, s.Live ∧ s.request = some (.xchg 0xFF) ∧
    receivedByte (.respOther 0xFF) = some 0xFF ∧ s.rx = [0xFF] :=
  ⟨{ inRun .s1Clocks .none .uninitialized with rx := [0xFF] }, ⟨rfl, rfl, rfl⟩, by decide⟩

/-! For `ReceivedByteOutsideAPoll`: each loop at its first and its last byte, the settle byte and the release byte. -/

theorem test_witness_ReceivedByteOutsideAPoll_clocks : ∀ b ∈ [(0 : BitVec 4), 9],
    { inRun .s1Clocks .none .uninitialized with bidx := b }.bidx.toNat < 10 := by decide
theorem test_witness_ReceivedByteOutsideAPoll_transaction : ∀ t ∈ [Phase.settle, .frame, .trail],
    (inRun .s2Reset t .uninitialized).seq.isTransaction = true ∧ (inRun .s2Reset t .uninitialized).tph = t ∧
      pointCommand (inRun .s2Reset t .uninitialized).params (inRun .s2Reset t .uninitialized).seq =
        some cmd0Operands := by decide
theorem test_witness_ReceivedByteOutsideAPoll_frame : ∀ k ∈ [(0 : Fin 6), 5],
    { inRun .s2Reset .frame .uninitialized with bidx := BitVec.ofNat 4 k }.bidx = BitVec.ofNat 4 k := by decide
theorem test_witness_ReceivedByteOutsideAPoll_ocr : ∀ b ∈ [(0 : BitVec 4), 3],
    { inRun .s5Ocrbytes .none .voltageNegotiated with bidx := b }.bidx.toNat < 4 := by decide
/-- O8, one byte at a time: the last of `12 34 56 78`. -/
theorem test_received_ocr_byte : view (fun t => (t.ocr, t.seq)) (exec (.respOther 0x78)
    { inRun .s5Ocrbytes .none .voltageNegotiated with ocr := 0xFF123456, bidx := 3 }) =
    some (0x12345678, .s6Classify) := by decide

theorem live_inRun (p : Seq) (t : Phase) (c : CardState) : (inRun p t c).Live := ⟨rfl, rfl, rfl⟩

theorem test_witness_BytesReceivedWhileSendingAreDiscarded_clocks :
    (inRun .s1Clocks .none .uninitialized).request = some (.xchg 0xFF) := by decide
theorem test_witness_BytesReceivedWhileSendingAreDiscarded :
    ∀ t ∈ [Phase.settle, .trail, .frame], ∃ tx, (inRun .s4App t .versionChecked).request = some (.xchg tx) := by
  intro t ht
  simp only [List.mem_cons, List.not_mem_nil, or_false] at ht
  obtain rfl | rfl | rfl := ht <;> exact ⟨_, rfl⟩
theorem test_witness_OcrReplyIsAssembledAndClassified :
    (inRun .s5Ocrbytes .none .voltageNegotiated).seq = .s5Ocrbytes ∧
      (inRun .s5Ocrbytes .none .voltageNegotiated).bidx = 0 := by decide
theorem test_witness_OcrReplyIsAssembledAndClassified_elsewhere : (ref []).seq ≠ .s5Ocrbytes := by decide
theorem test_witness_OcrReplyIsAssembledAndClassified_partway :
    { inRun .s5Ocrbytes .none .voltageNegotiated with bidx := 1 }.bidx ≠ 0 := by decide
/-- For `SendCommandEffect`, `CardCommandsAreTransactions`, `Acmd41IsTwoTransactions`. -/
theorem test_witness_transactions : (ref []).tph = .none := by decide
theorem test_witness_NoTransactionInsideATransaction : (inRun .s2Reset .assert .uninitialized).tph ≠ .none := by decide
theorem test_witness_StepsCarryOutTheTransaction_first :
    (inRun .s2Reset .none .uninitialized).tph = .none ∧
      pointCommand (ref []).params .s2Reset = some ⟨0, 0, 0x95⟩ := by decide
theorem test_witness_StepsCarryOutTheTransaction_last :
    (inRun .s7Blklen .none .capacityKnown).tph = .none ∧
      pointCommand (ref []).params .s7Blklen = some ⟨16, 512, 0xFF⟩ := by decide
theorem test_witness_StepRunsThePlacedOperation_decoded : ∃ s : State, s.rst = false ∧
    s.slot = some ⟨.response, [0x01]⟩ ∧ decode ⟨.response, [0x01]⟩ = .ok .respIdle :=
  ⟨{ ref [] with slot := some ⟨.response, [0x01]⟩ }, by decide⟩
theorem test_witness_StepRunsThePlacedOperation_undecoded : ∃ s : State, s.rst = false ∧
    s.slot = some ⟨.frame, []⟩ ∧ decode ⟨.frame, []⟩ = .error .wrongLength :=
  ⟨{ ref [] with slot := some ⟨.frame, []⟩ }, by decide⟩
/-- For `StepRunsThePlacedOperation` with nothing placed and `StartIsAcceptedWhenIdle`, both clauses. -/
theorem test_witness_StartIsAcceptedWhenIdle : ∀ b : Bool, { ref [] with start := b }.rst = false ∧
    { ref [] with start := b }.slot = none ∧ { ref [] with start := b }.seq = .idle := by decide
theorem test_witness_StartIsIgnoredDuringARun : (inRun .s8Desel .none .blockLengthSet).seq ≠ .idle ∧
    (inRun .s8Desel .none .blockLengthSet).slot = none ∧ (inRun .s8Desel .none .blockLengthSet).rst = false := by decide
theorem test_witness_SpeedIsSetFirst : (inRun .s1Speed .none .uninitialized).Live :=
  live_inRun ..
/-- The second clause; also for `StepsCarryOutInitializeCard`. -/
theorem test_witness_SpeedIsSetFirst_start : ∃ s : State, s.Live ∧ s.seq = .idle ∧ s.start = true :=
  ⟨{ ref [] with start := true }, ⟨rfl, rfl, rfl⟩, by decide⟩
theorem test_witness_PowerUpDelay : (inRun .s1Delay .none .uninitialized).Live := live_inRun ..
theorem test_witness_ResetCheck : (inRun .s2Reset .trail .uninitialized).Live := live_inRun ..
theorem test_witness_IfcondCheck : (inRun .s3Ifcond .trail .reset).Live := live_inRun ..
theorem test_witness_AppResponseIsIgnored : (inRun .s4App .trail .versionChecked).Live := live_inRun ..
theorem test_witness_OpcondCheck : (inRun .s4Opcond .trail .versionChecked).Live := live_inRun ..
/-- At the last iteration: it fails without the ready code. -/
theorem test_witness_OpcondCheck_last : ∃ s : State, s.Live ∧ s.seq = .s4Opcond ∧ s.tph = .trail ∧ s.iter = 65534 ∧
    view (fun t => t.errKind) (step s) = some .voltageNegotiationTimeout :=
  ⟨{ inRun .s4Opcond .trail .versionChecked with iter := 65534, rx := [0xFF] }, ⟨rfl, rfl, rfl⟩, by decide⟩
theorem test_witness_OcrCommandCheck : (inRun .s5Ocrcmd .trail .voltageNegotiated).Live := live_inRun ..
theorem test_witness_FourOcrBytes : (inRun .s5Ocrbytes .none .voltageNegotiated).Live ∧
    (inRun .s5Ocrbytes .none .voltageNegotiated).bidx = 0 := ⟨live_inRun .., by decide⟩
theorem test_witness_ClassifyByBit30 : (inRun .s6Classify .none .voltageNegotiated).rst = false ∧
    (inRun .s6Classify .none .voltageNegotiated).slot = none := by decide
theorem test_witness_BlockLengthFailureIsAWarning : (inRun .s7Blklen .trail .capacityKnown).Live := live_inRun ..
/-- The warning branch, SV17: response `04`. -/
theorem test_witness_BlockLengthFailureIsAWarning_warning : ∃ s : State, s.Live ∧ s.seq = .s7Blklen ∧ s.tph = .trail ∧
    s.resp = ⟨false, 0x04⟩ ∧ view (fun t => (t.warnBlklen, t.events)) (step s) =
      some (true, [.diag 1, .xchg 0xFF 0xFF]) :=
  ⟨{ inRun .s7Blklen .trail .capacityKnown with resp := ⟨false, 0x04⟩, rx := [0xFF] }, ⟨rfl, rfl, rfl⟩, by decide⟩
theorem test_witness_OperationalSpeedAtTheEnd : ∃ s : State, s.Live ∧ s.Inv ∧ s.seq = .s8Speed :=
  ⟨{ inRun .s8Speed .none .blockLengthSet with cardTypeValid := true },
    ⟨rfl, rfl, rfl⟩, by constructor <;> decide, rfl⟩
theorem test_witness_SuccessfulRunEnds : ∃ s : State, s.Live ∧ s.Inv ∧ s.seq = .s8Desel :=
  ⟨{ inRun .s8Desel .none .blockLengthSet with cardTypeValid := true, busSpeed := .operational },
    ⟨rfl, rfl, rfl⟩, by constructor <;> decide, rfl⟩
theorem test_witness_ResetGivesTheResetValues : { ref [] with rst := true }.rst = true := by decide
theorem test_witness_BlockWaitsForItsCollaborator : ∃ s : State, s.rst = false ∧ s.slot = none ∧ s.request ≠ none ∧
    s.ack = false := ⟨{ inRun .s1Speed .none .uninitialized with ack := false }, by decide⟩

/-! The invariant: at rest, in the power-up clocks, at the last step of a failure, at the end of a success. -/

/-- For `EveryStepKeepsTheInvariant`, `HostReadsTheResult` before a run. -/
theorem test_witness_inv_idle : (ref []).Inv := by constructor <;> decide
/-- For `TenPowerUpClocks`, `CardStateOnlyAdvances`. -/
theorem test_witness_TenPowerUpClocks : (inRun .s1Clocks .none .uninitialized).Inv ∧
    (inRun .s1Clocks .none .uninitialized).Live ∧ (inRun .s1Clocks .none .uninitialized).bidx = 0 :=
  ⟨by constructor <;> decide, live_inRun .., by decide⟩
/-- The release byte of a 200th `CMD0` that got no idle code. -/
def lastAttempt : State := { inRun .s2Reset .trail .uninitialized with attempt := 199, rx := [0xFF] }
theorem test_witness_FailureIsPrecise : lastAttempt.Inv ∧ lastAttempt.slot = none ∧ lastAttempt.rst = false ∧
    lastAttempt.cardState ≠ .failed ∧ view State.cardState (step lastAttempt) = some .failed :=
  ⟨by constructor <;> decide, by decide⟩
theorem test_witness_SelectDuringExchanges :
    (inRun .s2Reset .settle .uninitialized).Inv ∧
      (inRun .s2Reset .settle .uninitialized).request = some (.xchg 0xFF) :=
  ⟨by constructor <;> decide, by decide⟩
theorem test_witness_SelectDuringExchanges_frame :
    { inRun .s2Reset .frame .uninitialized with frame := #v[0x40, 0, 0, 0, 0, 0x95] }.Inv ∧
      { inRun .s2Reset .frame .uninitialized with frame := #v[0x40, 0, 0, 0, 0, 0x95] }.request = some (.xchg 0x40) :=
  ⟨by constructor <;> decide, by decide⟩
/-- After a success. -/
def succeeded : State := { ref [] with
  busSpeed := .operational, cardState := .ready, done := true, ok := true, cardTypeValid := true }
theorem test_witness_HostReadsTheResult_ok : succeeded.Inv ∧ succeeded.done = true ∧ succeeded.ok = true :=
  ⟨by constructor <;> decide, by decide⟩
/-- After a failure. -/
def failedRun : State := { ref [] with cardState := .failed, errKind := .ocrReadError, done := true }
theorem test_witness_HostReadsTheResult_error : failedRun.Inv ∧ failedRun.done = true ∧ failedRun.ok = false :=
  ⟨by constructor <;> decide, by decide⟩

/-- For the statements about a step that gives a next state (`ParametersAndInputsAreNotWritten`,
`OneStepCompletesTheCallRaised`, `SelectChangesOnlyByItsCalls`, and both clauses of `FrameIsWrittenOncePerTransaction`). -/
theorem test_witness_steps : view State.sel (step (inRun .s2Reset .assert .uninitialized)) = some true ∧
    (inRun .s2Reset .assert .uninitialized).request = some (.select true) ∧
    view (fun t => t.frame[5]) (step (inRun .s3Ifcond .none .reset)) = some 0x87 := by decide
/-- For `OneStepCompletesTheCallRaised`, first clause: a poll with no exchange left raises no call. -/
theorem test_witness_OneStepCompletesTheCallRaised_none :
    { polling with polls := 8 }.request = none ∧
      view State.events (step { polling with polls := 8 }) = some [] := by decide
theorem test_witness_SpeedChangesOnlyAtItsTwoPoints :
    view State.busSpeed (step (inRun .s8Speed .none .blockLengthSet)) = some .operational ∧
    view State.busSpeed (step { inRun .s1Speed .none .uninitialized with busSpeed := .operational }) = some .init := by
  decide
/-- For `InitializeCardCompletes`, `ARunForgetsThePast`: an idle block that has run, and one that has not. -/
theorem test_witness_ARunForgetsThePast : succeeded.seq = .idle ∧ (ref []).seq = .idle ∧
    succeeded.params = (ref []).params ∧ succeeded.rx = (ref []).rx ∧ succeeded.rxCount = (ref []).rxCount := by decide
/-- At the smallest bound and at the reference bound, with exactly as many bytes as the run takes. -/
theorem test_witness_SilentCardFailsAfter200Resets : ∀ n ∈ [0, 8], ∃ s : State, s.seq = .idle ∧
    (∀ b ∈ s.rx, b = 0xFF) ∧ s.pollBoundOf 0 = n ∧ 10 + 200 * (8 + s.pollBoundOf 0) ≤ s.rx.length := by
  intro n _
  refine ⟨{ ref (List.replicate (10 + 200 * (8 + n)) 0xFF) with params := ⟨0xFF, Vector.replicate 64 n, true⟩ },
    rfl, fun b hb => List.eq_of_mem_replicate hb, rfl, ?_⟩
  show _ ≤ (List.replicate _ _).length
  rw [List.length_replicate]
  exact Nat.le_refl _

/-! Cards that answer: in the first and in the last poll byte, and not at all. -/

theorem answers_first (r : Byte) (h : r ≠ 0xFF) : Answers 8 ⟨false, r⟩ (answered r) :=
  ⟨List.replicate 7 0xFF, 0xFF, rfl, .inr ⟨0, r, by decide, h, rfl, rfl⟩⟩
theorem test_answers_last : Answers 8 ⟨false, 0x00⟩ (List.replicate 14 0xFF ++ [0x00, 0xFF]) :=
  ⟨List.replicate 7 0xFF, 0xFF, rfl, .inr ⟨7, 0x00, by decide, by decide, rfl, rfl⟩⟩
theorem answers_silent : Answers 8 .noResponse (List.replicate 16 0xFF) :=
  ⟨List.replicate 7 0xFF, 0xFF, rfl, .inl ⟨rfl, rfl⟩⟩

/-- P1 with `n` unanswered `CMD0` and `m` iterations before the last, and `CMD16` answered `04`. -/
def script (n m : Nat) : RunScript where
  clocks := List.replicate 10 0xFF
  resets := List.replicate n (List.replicate 16 0xFF)
  reset := answered 0x01
  ifcond := answered 0x01
  pairs := List.replicate m (answered 0x01, answered 0x01)
  app := answered 0x01
  opcond := answered 0x00
  ocrCommand := answered 0x00
  ocr := 0x40000000
  blklen := answered 0x04

theorem script_succeeds (n m : Nat) (hn : n < 200) (hm : m < 65535) (rx : List Byte) :
    (script n m).Succeeds (ref rx) ⟨false, 0x04⟩ where
  clocks := rfl
  resets_lt := (List.length_replicate ..).trans_lt hn
  resets l hl := by rw [List.eq_of_mem_replicate hl]; exact ⟨.noResponse, by decide, answers_silent⟩
  reset := answers_first _ (by decide)
  ifcond := answers_first _ (by decide)
  pairs_lt := (List.length_replicate ..).trans_lt hm
  pairs p hp := by
    rw [List.eq_of_mem_replicate hp]
    exact ⟨⟨_, answers_first _ (by decide)⟩, ⟨false, 0x01⟩, by decide, answers_first _ (by decide)⟩
  app := ⟨_, answers_first _ (by decide)⟩
  opcond := answers_first _ (by decide)
  ocrCommand := answers_first _ (by decide)
  blklen := answers_first _ (by decide)

/-- At once, and at the last allowed attempt and iteration (SV4, SV13). -/
theorem test_witness_AnsweredCardIsInitialized : ∀ p ∈ [(0, 0), (199, 65534)], ∃ s : State, s.seq = .idle ∧
    (script p.1 p.2).Succeeds s ⟨false, 0x04⟩ ∧ s.rx = (script p.1 p.2).bytes ++ [] := by
  intro p hp
  simp only [List.mem_cons, List.not_mem_nil, or_false] at hp
  refine ⟨ref ((script p.1 p.2).bytes ++ []), rfl, script_succeeds _ _ ?_ ?_ _, rfl⟩ <;>
    rcases hp with rfl | rfl <;> decide
/-- SV8, at once and at the last allowed attempt: `CMD8` not answered. -/
theorem test_witness_UnsupportedCardEndsTheRun : ∀ n ∈ [0, 199], ∃ (s : State) (resets : List (List Byte)), s.seq = .idle ∧
    resets.length = n ∧ resets.length < 200 ∧
    (∀ l ∈ resets, ∃ r', r' ≠ ⟨false, 0x01⟩ ∧ Answers (s.pollBoundOf 0) r' l) ∧
    Answers (s.pollBoundOf 0) ⟨false, 0x01⟩ (answered 0x01) ∧
    Answers (s.pollBoundOf 8) .noResponse (List.replicate 16 0xFF) ∧ Resp.noResponse ≠ ⟨false, 0x01⟩ ∧
    s.rx = List.replicate 10 0xFF ++ (resets.flatten ++ (answered 0x01 ++ (List.replicate 16 0xFF ++ []))) := by
  intro n hn
  simp only [List.mem_cons, List.not_mem_nil, or_false] at hn
  refine ⟨ref _, List.replicate n (List.replicate 16 0xFF), rfl, List.length_replicate .., ?_, ?_,
    answers_first _ (by decide), answers_silent, by decide, rfl⟩
  · rw [List.length_replicate]; omega
  · intro l hl
    rw [List.eq_of_mem_replicate hl]
    exact ⟨.noResponse, by decide, answers_silent⟩

end Sys2Proof.Tests
end

section
/-!
The Command Framer (40_framer.md): the bytes of a command frame, one lemma per byte, and what `buildFrame` does to a
state. That it leaves the rest of the state alone is the update `State.writeFrame`.
-/

namespace Sys2Proof.Machine

section FrameBytes

variable (index : Index) (argument : Arg) (checksum : Byte)

@[simp] theorem frameBytes_getElem_zero :
    (frameBytes index argument checksum)[0] = 0x40#8 ||| index.setWidth 8 := rfl
@[simp] theorem frameBytes_getElem_one :
    (frameBytes index argument checksum)[1] = argument.extractLsb' 24 8 := rfl
@[simp] theorem frameBytes_getElem_two :
    (frameBytes index argument checksum)[2] = argument.extractLsb' 16 8 := rfl
@[simp] theorem frameBytes_getElem_three :
    (frameBytes index argument checksum)[3] = argument.extractLsb' 8 8 := rfl
@[simp] theorem frameBytes_getElem_four :
    (frameBytes index argument checksum)[4] = argument.extractLsb' 0 8 := rfl
@[simp] theorem frameBytes_getElem_five :
    (frameBytes index argument checksum)[5] = checksum := rfl

end FrameBytes

/-- `buildFrame` is one write of the frame register, in every state (R120). -/
theorem exec_buildFrame (index : Index) (argument : Arg) (checksum : Byte) (s : State) :
    exec (.buildFrame index argument checksum) s = .next (s.writeFrame (frameBytes index argument checksum)) := rfl

/-- Writing the frame register changes no other field. -/
theorem State.writeFrame_eq_update (f : Vector Byte 6) (s : State) :
    s.writeFrame f = { s with frame := (s.writeFrame f).frame } := rfl

/-- Settles O5: the next state is the one write of `exec_buildFrame`; its bytes are those of `frameBytes`. -/
theorem buildFrameWritesTheFrame : Obligations.BuildFrameWritesTheFrame := by
  unfold Obligations.BuildFrameWritesTheFrame
  intro index argument checksum s
  refine ⟨s.writeFrame (frameBytes index argument checksum), exec_buildFrame index argument checksum s, ?_⟩
  simp only [State.writeFrame_frame]
  exact ⟨frameBytes_getElem_zero .., frameBytes_getElem_one .., frameBytes_getElem_two ..,
    frameBytes_getElem_three .., frameBytes_getElem_four .., frameBytes_getElem_five ..,
    State.writeFrame_eq_update ..⟩

end Sys2Proof.Machine
end

section
/-!
The Response Poller (41_poller.md) on a silent card: which outcome and which events a poll has when it receives only
fillers, and what `pollResponse` does to a state that lists them.
-/

namespace Sys2Proof.Machine

/-- NoResponse equals no code, not even the filler it holds (R22, R131). -/
@[simp] theorem Resp.noResponse_is (c : Byte) : Resp.noResponse.is c = false := rfl

@[simp] theorem Resp.noResponse_isNone : Resp.noResponse.isNone = true := rfl

/-- `pollResponse` is one whole poll, in every state (R130). -/
theorem exec_pollResponse (n : Nat) (s : State) : exec (.pollResponse n) s = .next (poll n s) := rfl

/-- The bytes of a listed run of fillers are the next bytes received. -/
theorem State.byteAt_of_replicate_filler {s : State} {n : Nat} {rest : List Byte}
    (hrx : s.rx = List.replicate n 0xFF ++ rest) {j : Nat} (hj : j < n) : s.byteAt j = 0xFF := by
  have hlen : j < s.rx.length := by
    rw [hrx, List.length_append, List.length_replicate]
    omega
  rw [State.byteAt_listed hlen]
  simp [hrx, hj]

section Silent

variable {s : State} {first : Nat}

/-- A poll that receives only fillers has used all its exchanges and gives NoResponse: a reply would be a received byte
other than the filler. -/
theorem PollOutcome.eq_noResponse_of_silent {bound k : Nat} {r : Resp} (ho : PollOutcome s first bound k r)
    (hsilent : ∀ j < bound, s.byteAt (first + j) = 0xFF) : k = bound ∧ r = .noResponse := by
  obtain ⟨hk, hr, -⟩ | ⟨j, rfl, hle, hne, -, -⟩ := ho
  · exact ⟨hk, hr⟩
  · exact absurd (hsilent j hle) hne

/-- The events of poll exchanges that all receive the filler. -/
theorem pollEvents_of_silent {k : Nat} (hsilent : ∀ j < k, s.byteAt (first + j) = 0xFF) :
    pollEvents s first k = List.replicate k (.xchg 0xFF 0xFF) := by
  refine List.eq_replicate_iff.mpr ⟨by simp [pollEvents], fun e he => ?_⟩
  obtain ⟨j, hj, rfl⟩ := List.mem_map.mp he
  rw [hsilent j (List.mem_range.mp hj)]

end Silent

/-- A whole poll of `n` exchanges on `n` listed fillers (R131, R132). -/
theorem poll_of_replicate_filler {n : Nat} {rest : List Byte} {s : State}
    (hrx : s.rx = List.replicate n 0xFF ++ rest) : poll n s =
    { s with
      resp := .noResponse, bound := n, polls := n, rx := rest, rxCount := s.rxCount + n,
      events := List.replicate n (.xchg 0xFF 0xFF) ++ s.events } := by
  have hsilent : ∀ j < n, s.byteAt (0 + j) = 0xFF := fun j hj => by
    rw [Nat.zero_add, State.byteAt_of_replicate_filler hrx hj]
  have hdrop : s.rx.drop n = rest := by rw [hrx, List.drop_left' List.length_replicate]
  obtain ⟨k, r, ho, hpoll⟩ := poll_spec n s
  obtain ⟨rfl, rfl⟩ := ho.eq_noResponse_of_silent hsilent
  rw [hpoll, pollEvents_of_silent hsilent, List.reverse_replicate, hdrop]

/-- Settles O6: the next state is that of a whole poll on listed fillers, `poll_of_replicate_filler`. -/
theorem silentPollGivesNoResponse : Obligations.SilentPollGivesNoResponse := by
  unfold Obligations.SilentPollGivesNoResponse
  intro n rest s hrx
  have heff := poll_of_replicate_filler hrx
  have hresp : (poll n s).resp = .noResponse := by rw [heff]
  refine ⟨poll n s, exec_pollResponse n s, ?_, fun c => ?_, heff⟩
  · rw [hresp, Resp.noResponse_isNone]
  · rw [hresp, Resp.noResponse_is]

end Sys2Proof.Machine
end

section
/-!
The parts of the initialization sequence outside a transaction (43_init_sequence.md R161, R163, R180, R185): the card is
deselected there, the speed call that opens a run, the ten power-up clocks as one byte loop of fillers, and the
classification as one internal step.
-/

namespace Sys2Proof.Machine

/-! ### Outside a transaction -/

/-- At a program point that issues no command the block is in no phase, so the card is deselected (R31, R45 (b)). -/
theorem State.Inv.deselected {s : State} (hinv : s.Inv) (hpoint : s.seq.isTransaction = false) :
    s.tph = .none ∧ s.sel = false := by
  have htph : s.tph = .none := by
    by_contra hne
    exact Bool.false_ne_true (hpoint.symm.trans (hinv.phase_point hne))
  exact ⟨htph, by rw [hinv.sel_iff, htph, Phase.selected]⟩

/-- An internal transition waits for no collaborator. -/
theorem step_internal {s : State} (hr : s.rst = false) (hs : s.slot = none) (hreq : s.request = none) :
    step s = .next (advance s) := by
  rw [step_tick hr hs, tick, hreq]
  rfl

/-! ### Step 1, speed -/

theorem State.Live.acceptStart {s : State} (hlive : s.Live) : s.acceptStart.Live := hlive

theorem step_s1Speed {s : State} (hlive : s.Live) (hp : s.seq = .s1Speed) :
    step s = .next (s.speedInit.goto .s1Delay) := by
  rw [step_live hlive, advance_s1Speed hp]

theorem step_idle_start {s : State} (hlive : s.Live) (hp : s.seq = .idle) (hstart : s.start = true) :
    step s = .next s.acceptStart := by
  rw [step_live hlive, advance_idle hp, if_pos hstart]

/-- Settles O22: the speed call of `step_s1Speed`, to which the acceptance of a start leads without an event. -/
theorem speedIsSetFirst : Obligations.SpeedIsSetFirst := by
  unfold Obligations.SpeedIsSetFirst
  intro s hlive
  constructor
  · exact step_s1Speed hlive
  · intro hidle hstart
    have hpoint : s.acceptStart.seq = .s1Speed := State.acceptStart_seq s
    exact ⟨s.acceptStart, s.acceptStart.speedInit.goto .s1Delay, step_idle_start hlive hidle hstart, hpoint,
      State.acceptStart_events s, step_s1Speed hlive.acceptStart hpoint, by simp⟩

/-! ### Bytes sent one after the other -/

theorem sendBytes_concat (bs : List Byte) (b : Byte) (s : State) :
    sendBytes (bs ++ [b]) s = (sendBytes bs s).sendXchg b := by
  induction bs generalizing s with
  | nil => rfl
  | cons c bs ih => exact ih (s.sendXchg c)

@[simp] theorem sendBytes_seq (bs : List Byte) (s : State) : (sendBytes bs s).seq = s.seq := by rw [sendBytes_eq]

@[simp] theorem sendBytes_sel (bs : List Byte) (s : State) : (sendBytes bs s).sel = s.sel := by rw [sendBytes_eq]

@[simp] theorem sendBytes_bidx (bs : List Byte) (s : State) :
    (sendBytes bs s).bidx = s.bidx + BitVec.ofNat 4 bs.length := by rw [sendBytes_eq]

/-- From 0, the four-bit byte counter counts the bytes sent. -/
theorem sendBytes_replicate_bidx {s : State} (hb : s.bidx = 0) (k : Nat) (b : Byte) :
    (sendBytes (List.replicate k b) s).bidx = BitVec.ofNat 4 k := by
  rw [sendBytes_bidx, hb, List.length_replicate, BitVec.ofNat_eq_ofNat, BitVec.zero_add]

theorem sendBytes_replicate_bidx_toNat {s : State} (hb : s.bidx = 0) {k : Nat} (hk : k < 16) (b : Byte) :
    (sendBytes (List.replicate k b) s).bidx.toNat = k := by
  rw [sendBytes_replicate_bidx hb, BitVec.toNat_ofNat, Nat.mod_eq_of_lt hk]

theorem State.Live.sendBytes {s : State} (hlive : s.Live) (bs : List Byte) : (sendBytes bs s).Live := by
  rw [sendBytes_eq]
  exact hlive

/-- Fillers sent give the events that poll exchanges give. -/
theorem sendEvents_replicate_filler (s : State) (first k : Nat) :
    sendEvents s first (List.replicate k Config.filler) = pollEvents s first k := by
  induction k generalizing first with
  | zero => rfl
  | succ k ih =>
    rw [List.replicate_succ, sendEvents, ih]
    simp [pollEvents, List.range_succ_eq_map, Function.comp_def, Nat.add_assoc, Nat.add_comm 1]

/-! ### Step 1, the power-up clocks -/

section Clocks

variable {s : State} (hlive : s.Live) (hp : s.seq = .s1Clocks)

include hp in
theorem request_s1Clocks (hb : s.bidx.toNat < 10) : s.request = some (.xchg 0xFF) := by
  unfold State.request
  rw [hp]
  exact if_pos hb

include hlive hp

/-- A filler byte before the last keeps the block in the loop. -/
theorem step_s1Clocks_of_lt (hb : s.bidx.toNat + 1 < 10) : step s = .next (s.sendXchg Config.filler) := by
  rw [step_live hlive, advance_s1Clocks hp, advanceClocks]
  exact congrArg _ (if_pos hb)

/-- The tenth filler byte ends the loop and step 2 begins. -/
theorem step_s1Clocks_last (hb : s.bidx = 9) :
    step s = .next (((s.sendXchg Config.filler).setAttempt 0).goto .s2Reset) := by
  rw [step_live hlive, advance_s1Clocks hp, advanceClocks, hb]
  rfl

/-- `k` steps of the loop, none of them the last, send `k` fillers. -/
theorem run_s1Clocks (hb : s.bidx = 0) {k : Nat} (hk : k < 10) :
    core.run k s = .next (sendBytes (List.replicate k Config.filler) s) := by
  induction k with
  | zero => rfl
  | succ k ih =>
    have hbidx : (sendBytes (List.replicate k Config.filler) s).bidx.toNat + 1 < 10 := by
      rwa [sendBytes_replicate_bidx_toNat hb (by omega)]
    have hstep := step_s1Clocks_of_lt (hlive.sendBytes _) (by rw [sendBytes_seq, hp]) hbidx
    rw [run_add (ih (by omega)), run_one hstep, ← sendBytes_concat, ← List.replicate_succ']

/-- All ten steps of the loop send ten fillers and go on to step 2. -/
theorem run_s1Clocks_all (hb : s.bidx = 0) : core.run 10 s =
    .next (((sendBytes (List.replicate 10 Config.filler) s).setAttempt 0).goto .s2Reset) := by
  have hlast := step_s1Clocks_last (hlive.sendBytes (List.replicate 9 Config.filler)) (by rw [sendBytes_seq, hp])
    (sendBytes_replicate_bidx hb 9 _)
  rw [run_add (m := 9) (n := 1) (run_s1Clocks hlive hp hb (by omega)), run_one hlast, ← sendBytes_concat,
    ← List.replicate_succ']

end Clocks

/-- Settles O24: the state after `k` clocks is that of `k` fillers sent (`run_s1Clocks`), which keeps the program point
and the select record; the tenth step is that of `run_s1Clocks_all`. -/
theorem tenPowerUpClocks : Obligations.TenPowerUpClocks := by
  unfold Obligations.TenPowerUpClocks
  intro s hlive hinv hp hb
  constructor
  · intro k hk
    have hpoint : (sendBytes (List.replicate k Config.filler) s).seq = .s1Clocks := by rw [sendBytes_seq, hp]
    have hsel : s.sel = false := (hinv.deselected (by rw [hp, Seq.isTransaction])).2
    have hlt : (sendBytes (List.replicate k Config.filler) s).bidx.toNat < 10 := by
      rwa [sendBytes_replicate_bidx_toNat hb (by omega)]
    exact ⟨_, run_s1Clocks hlive hp hb hk, hpoint, sendBytes_replicate_bidx hb k _, by rw [sendBytes_sel, hsel],
      request_s1Clocks hpoint hlt⟩
  · rw [run_s1Clocks_all hlive hp hb, sendBytes_eq, sendEvents_replicate_filler, hb]
    rfl

/-! ### Step 6, classification -/

theorem step_s6Classify {s : State} (hr : s.rst = false) (hs : s.slot = none) (hp : s.seq = .s6Classify) :
    step s = .next (classify s) := by
  have hreq : s.request = none := by
    unfold State.request
    rw [hp]
  rw [step_internal hr hs hreq, advance_s6Classify hp]

theorem cardTypeOf_eq_sdhc_iff (ocr : BitVec 32) : cardTypeOf ocr = .sdhc ↔ ocr.getLsbD 30 = true := by
  unfold cardTypeOf Config.ccsBit
  cases ocr.getLsbD 30 <;> decide

/-- Bit 30 of the OCR is bit 6 of the first OCR byte, the most significant (R178). -/
theorem firstOcrByte_and_ne_zero_iff (ocr : BitVec 32) :
    ocr.extractLsb' 24 8 &&& 0x40#8 ≠ 0 ↔ ocr.getLsbD 30 = true := by
  have hbit : (ocr.extractLsb' 24 8).getLsbD 6 = ocr.getLsbD 30 := by simp
  rw [show 0x40#8 = BitVec.twoPow 8 6 from rfl, BitVec.and_twoPow, hbit]
  cases ocr.getLsbD 30 <;> decide

/-- Settles O31: the one internal step of `step_s6Classify`; both forms of the class say that bit 30 is set. -/
theorem classifyByBit30 : Obligations.ClassifyByBit30 := by
  unfold Obligations.ClassifyByBit30
  intro s hr hs hp
  refine ⟨classify s, step_s6Classify hr hs hp, rfl, ?_⟩
  have htype : (classify s).cardType = cardTypeOf s.ocr := rfl
  rw [htype, cardTypeOf_eq_sdhc_iff, firstOcrByte_and_ne_zero_iff]

/-! ### Step 8, speed -/

/-- Settles O33: `S8_SPEED` issues no command, so the invariant has the card deselected there. -/
theorem operationalSpeedAtTheEnd : Obligations.OperationalSpeedAtTheEnd := by
  unfold Obligations.OperationalSpeedAtTheEnd
  intro s hlive hinv hp
  obtain ⟨htph, hsel⟩ := hinv.deselected (by rw [hp, Seq.isTransaction])
  refine ⟨hsel, htph, ?_⟩
  rw [step_live hlive, advance_s8Speed hp]
  rfl

end Sys2Proof.Machine
end

section
/-!
The encoding (30_encoding.md): what the decoder gives for the bytes of a frame, that frames are all it accepts, and which
row a frame or a received byte has. Both directions of the round trip are assembled from these.
-/

namespace Sys2Proof

/-- What a test of the decoder lets through passed it. -/
theorem of_ite_error_eq_ok {p : Prop} [Decidable p] {e : DecodeError} {x : Except DecodeError Instr} {i : Instr}
    (h : (if p then x else .error e) = .ok i) : p ∧ x = .ok i := by
  split at h
  case isTrue hp => exact ⟨hp, h⟩
  case isFalse => exact nomatch h

/-! ### Frames -/

theorem frameBytes_toList (index : Index) (argument : Arg) (checksum : Byte) :
    (frameBytes index argument checksum).toList =
      [Config.startBits ||| index.setWidth 8, argument.extractLsb' 24 8, argument.extractLsb' 16 8,
        argument.extractLsb' 8 8, argument.extractLsb' 0 8, checksum] := rfl

/-- The fields come back from the bytes of a frame (R125). -/
theorem frameFields_frameBytes (index : Index) (argument : Arg) (checksum : Byte) :
    frameFields (Config.startBits ||| index.setWidth 8) (argument.extractLsb' 24 8) (argument.extractLsb' 16 8)
      (argument.extractLsb' 8 8) (argument.extractLsb' 0 8) checksum = .ok (index, argument, checksum) := by
  obtain ⟨hpattern, hindex⟩ := startByte_fields index
  rw [frameFields, if_pos hpattern, hindex, ofBytes32_extract]

/-- Six bytes with the start pattern are the frame of the fields read from them. -/
theorem frameBytes_of_pattern {b0 : Byte} (hpattern : b0.extractLsb' 6 2 = 1) (b1 b2 b3 b4 b5 : Byte) :
    frameBytes (b0.setWidth 6) (ofBytes32 b1 b2 b3 b4) b5 = #v[b0, b1, b2, b3, b4, b5] := by
  obtain ⟨h1, h2, h3, h4⟩ := extract_ofBytes32 b1 b2 b3 b4
  simp only [frameBytes, startByte_of_pattern b0 hpattern, h1, h2, h3, h4]

/-- Bytes whose fields are read are the bytes of the frame of those fields. -/
theorem eq_frame_of_map_frameFields {b0 b1 b2 b3 b4 b5 : Byte} {row : Index × Arg × Byte → Instr} {i : Instr}
    (h : (frameFields b0 b1 b2 b3 b4 b5).map row = .ok i) : ∃ index argument checksum,
      [b0, b1, b2, b3, b4, b5] = (frameBytes index argument checksum).toList ∧
      i = row (index, argument, checksum) := by
  unfold frameFields at h
  split at h
  case isTrue hpattern =>
    injection h with h
    refine ⟨b0.setWidth 6, ofBytes32 b1 b2 b3 b4, b5, ?_, h.symm⟩
    rw [frameBytes_of_pattern hpattern]
    rfl
  case isFalse => exact nomatch h

theorem decodeFrame_frameBytes (index : Index) (argument : Arg) (checksum : Byte) :
    decodeFrame (frameBytes index argument checksum).toList = .ok (frameInstr index argument checksum) := by
  rw [frameBytes_toList, decodeFrame, frameFields_frameBytes]
  rfl

/-- Only frames decode at the frame port, each to the row of its fields. -/
theorem eq_frame_of_decodeFrame {bytes : List Byte} {i : Instr} (h : decodeFrame bytes = .ok i) :
    ∃ index argument checksum, bytes = (frameBytes index argument checksum).toList ∧
      i = frameInstr index argument checksum := by
  unfold decodeFrame at h
  split at h
  case h_1 => exact eq_frame_of_map_frameFields h
  case h_2 => exact nomatch h

/-! ### The row of a frame -/

/-- A frame that spells no command row is the generic row's. -/
theorem frameInstr_of_not_command {index : Index} {argument : Arg} {checksum : Byte}
    (h : isCommandFrame index argument checksum = false) :
    frameInstr index argument checksum = .buildFrame index argument checksum := by
  simp only [isCommandFrame, Bool.or_eq_false_iff, Bool.and_eq_false_iff, beq_eq_false_iff_ne] at h
  obtain ⟨⟨⟨⟨⟨h0, h8⟩, h55⟩, h41⟩, h58⟩, h16⟩ := h
  unfold frameInstr
  rw [if_neg (by tauto), if_neg (by tauto), if_neg (by tauto), if_neg (by tauto), if_neg (by tauto), if_neg (by tauto)]

/-- The row of a frame is well-formed and encodes to that frame: a command row fixes the fields it does not carry. -/
theorem frameInstr_spelling (index : Index) (argument : Arg) (checksum : Byte) :
    (frameInstr index argument checksum).wellFormed = true ∧
      encode (frameInstr index argument checksum) = ⟨.frame, (frameBytes index argument checksum).toList⟩ := by
  cases hc : isCommandFrame index argument checksum
  case false =>
    rw [frameInstr_of_not_command hc, Instr.wellFormed, hc]
    exact ⟨rfl, rfl⟩
  case true =>
    simp only [isCommandFrame, Bool.or_eq_true, Bool.and_eq_true, beq_iff_eq] at hc
    obtain ((((⟨⟨rfl, rfl⟩, rfl⟩ | ⟨⟨rfl, rfl⟩, rfl⟩) | ⟨rfl, rfl⟩) | ⟨rfl, rfl⟩) | ⟨rfl, rfl⟩) | ⟨rfl, rfl⟩ := hc
    all_goals exact ⟨rfl, rfl⟩

theorem decodeFrame_spelling {bytes : List Byte} {i : Instr} (h : decodeFrame bytes = .ok i) :
    i.wellFormed = true ∧ encode i = ⟨.frame, bytes⟩ := by
  obtain ⟨index, argument, checksum, rfl, rfl⟩ := eq_frame_of_decodeFrame h
  exact frameInstr_spelling index argument checksum

/-! ### The row of a received byte -/

theorem responseInstr_of_not_named {r : Byte} (h : isNamedResponse r = false) : responseInstr r = .respOther r := by
  simp only [isNamedResponse, Bool.or_eq_false_iff, beq_eq_false_iff_ne] at h
  obtain ⟨⟨hfiller, hready⟩, hidle⟩ := h
  rw [responseInstr, if_neg hfiller, if_neg hready, if_neg hidle]

theorem responseInstr_spelling (r : Byte) :
    (responseInstr r).wellFormed = true ∧ encode (responseInstr r) = ⟨.response, [r]⟩ := by
  cases hn : isNamedResponse r
  case false =>
    rw [responseInstr_of_not_named hn, Instr.wellFormed, hn]
    exact ⟨rfl, rfl⟩
  case true =>
    simp only [isNamedResponse, Bool.or_eq_true, beq_iff_eq] at hn
    obtain (rfl | rfl) | rfl := hn
    all_goals exact ⟨rfl, rfl⟩

/-! ### Pairs and transactions -/

theorem decodeFramePair_frameBytes (c : Byte) :
    decodeFramePair ((frameBytes Config.idxApp Config.argApp c).toList ++
      (frameBytes Config.idxOpcond Config.argOpcond c).toList) = .ok (.acmd41 c) := by
  have happ : decodeFrame (frameBytes Config.idxApp Config.argApp c).toList = .ok (.cmd55 c) :=
    decodeFrame_frameBytes ..
  have hopcond : decodeFrame (frameBytes Config.idxOpcond Config.argOpcond c).toList = .ok (.cmd41 c) :=
    decodeFrame_frameBytes ..
  rw [decodeFramePair, if_pos (by rfl), List.take_left' (by rfl), List.drop_left' (by rfl), happ, hopcond]
  exact if_pos rfl


theorem decodeFramePair_spelling {bytes : List Byte} {i : Instr} (h : decodeFramePair bytes = .ok i) :
    i.wellFormed = true ∧ encode i = ⟨.framePair, bytes⟩ := by
  obtain ⟨-, h⟩ := of_ite_error_eq_ok h
  split at h
  case h_1 c d happ hopcond =>
    obtain ⟨rfl, hok⟩ := of_ite_error_eq_ok h
    injection hok with hi
    obtain ⟨-, happ⟩ := decodeFrame_spelling happ
    obtain ⟨-, hopcond⟩ := decodeFrame_spelling hopcond
    have happ : (frameBytes Config.idxApp Config.argApp c).toList = bytes.take 6 := congrArg Packet.bytes happ
    have hopcond : (frameBytes Config.idxOpcond Config.argOpcond c).toList = bytes.drop 6 :=
      congrArg Packet.bytes hopcond
    rw [← hi, encode, happ, hopcond, List.take_append_drop]
    exact ⟨rfl, rfl⟩
  all_goals exact nomatch h

theorem decodeTransaction_frameBytes (index : Index) (argument : Arg) (checksum : Byte) :
    decodeTransaction (Config.filler :: (frameBytes index argument checksum).toList) =
      .ok (.sendCommand index argument checksum) := by
  rw [frameBytes_toList, decodeTransaction, if_pos rfl, frameFields_frameBytes]
  rfl

theorem decodeTransaction_spelling {bytes : List Byte} {i : Instr} (h : decodeTransaction bytes = .ok i) :
    i.wellFormed = true ∧ encode i = ⟨.transaction, bytes⟩ := by
  unfold decodeTransaction at h
  split at h
  case h_1 =>
    obtain ⟨rfl, h⟩ := of_ite_error_eq_ok h
    obtain ⟨index, argument, checksum, hbytes, rfl⟩ := eq_frame_of_map_frameFields h
    rw [hbytes]
    exact ⟨rfl, rfl⟩
  case h_2 => exact nomatch h

/-! ### Both directions -/

/-- Settles O1: row by row, the bytes of a row are read back as its fields; the two generic rows use that no specific row
has their bytes. -/
theorem decodeEncodeRoundTrip : Obligations.DecodeEncodeRoundTrip := by
  unfold Obligations.DecodeEncodeRoundTrip
  intro i hwf
  cases i with
  | cmd0 | cmd8 => rfl
  | cmd55 crc => exact decodeFrame_frameBytes Config.idxApp Config.argApp crc
  | cmd41 crc => exact decodeFrame_frameBytes Config.idxOpcond Config.argOpcond crc
  | cmd58 crc => exact decodeFrame_frameBytes Config.idxOcr Config.argOcr crc
  | cmd16 crc => exact decodeFrame_frameBytes Config.idxBlklen Config.blockLen crc
  | acmd41 crc => exact decodeFramePair_frameBytes crc
  | buildFrame index argument checksum =>
    have hrow : isCommandFrame index argument checksum = false := by simpa [Instr.wellFormed] using hwf
    exact (decodeFrame_frameBytes ..).trans (congrArg _ (frameInstr_of_not_command hrow))
  | sendCommand index argument checksum => exact decodeTransaction_frameBytes ..
  | pollResponse maxAttempts | initializeCard | respFiller | respReady | respIdle => rfl
  | respOther r =>
    have hnamed : isNamedResponse r = false := by simpa [Instr.wellFormed] using hwf
    exact congrArg Except.ok (responseInstr_of_not_named hnamed)
  | ocr word => exact congrArg (Except.ok ∘ Instr.ocr) (ofBytes32_extract word)

/-- Settles O2: port by port, the bytes that decode are those of the row they decode to. -/
theorem decodedWordsHaveOneSpelling : Obligations.DecodedWordsHaveOneSpelling := by
  unfold Obligations.DecodedWordsHaveOneSpelling
  rintro ⟨port, bytes⟩ i h
  unfold decode at h
  cases port with
  | frame => exact decodeFrame_spelling h
  | framePair => exact decodeFramePair_spelling h
  | transaction => exact decodeTransaction_spelling h
  | poll maxAttempts =>
    dsimp only at h
    split at h
    case h_1 b =>
      obtain ⟨rfl, h⟩ := of_ite_error_eq_ok h
      injection h with h
      rw [← h]
      exact ⟨rfl, rfl⟩
    case h_2 => exact nomatch h
  | hostStart =>
    dsimp only at h
    split at h
    case h_1 b =>
      obtain ⟨rfl, h⟩ := of_ite_error_eq_ok h
      injection h with h
      rw [← h]
      exact ⟨rfl, rfl⟩
    case h_2 => exact nomatch h
  | response =>
    dsimp only at h
    split at h
    case h_1 b =>
      injection h with h
      exact h ▸ responseInstr_spelling b
    case h_2 => exact nomatch h
  | ocrReply =>
    dsimp only at h
    split at h
    case h_1 b0 b1 b2 b3 =>
      injection h with h
      obtain ⟨h0, h1, h2, h3⟩ := extract_ofBytes32 b0 b1 b2 b3
      rw [← h, encode, ocrBytes, h0, h1, h2, h3]
      exact ⟨rfl, rfl⟩
    case h_2 => exact nomatch h

/-- Settles O3: the start pattern is that of `startByte_fields`, and a vector that has it is the frame of the fields read
from it. -/
theorem frameFieldsComeBack : Obligations.FrameFieldsComeBack := by
  unfold Obligations.FrameFieldsComeBack
  constructor
  · intro index argument checksum
    obtain ⟨-, hindex⟩ := startByte_fields index
    refine ⟨?_, ofBytes32_extract argument, rfl⟩
    rwa [BitVec.setWidth_eq_extractLsb' (by decide)] at hindex
  · intro f
    constructor
    · rintro ⟨index, argument, checksum, rfl⟩
      exact (startByte_fields index).1
    · intro hpattern
      refine ⟨f[0].setWidth 6, ofBytes32 f[1] f[2] f[3] f[4], f[5], ?_⟩
      rw [frameBytes_of_pattern hpattern, ← Vector.toList_inj]
      exact (Machine.frame_toList f).symm

/-- Settles O4: each word is evaluated. -/
theorem tableWordsDecode : Obligations.TableWordsDecode := by
  unfold Obligations.TableWordsDecode
  decide

end Sys2Proof
end

section
/-!
The Response Poller on a card that replies and the Transaction Wrapper (41_poller.md, 42_transaction.md): the outcome of a
poll is determined by the bytes received, and every transaction operation is `transact` or is refused by its phase.
-/

namespace Sys2Proof.Machine

/-! ### The poll -/

/-- Fillers followed by another byte within the bound: the poll ends there, with that reply. -/
theorem PollOutcome.eq_reply_of_fillers {s : State} {first bound k m : Nat} {r : Resp}
    (ho : PollOutcome s first bound k r) (hfill : ∀ j < m, s.byteAt (first + j) = 0xFF) (hm : m < bound)
    (hreply : s.byteAt (first + m) ≠ 0xFF) : k = m + 1 ∧ r = .reply (s.byteAt (first + m)) := by
  obtain ⟨rfl, -, hall⟩ | ⟨j, rfl, -, hne, rfl, hbefore⟩ := ho
  · exact absurd (hall m hm) hreply
  · obtain rfl : j = m := by
      rcases Nat.lt_trichotomy j m with hlt | heq | hlt
      · exact absurd (hfill j hlt) hne
      · exact heq
      · exact absurd (hbefore m hlt) hreply
    exact ⟨rfl, rfl⟩

/-- The bytes received determine how many exchanges a poll makes and what it gives. -/
theorem PollOutcome.unique {s : State} {first bound k k' : Nat} {r r' : Resp} (h : PollOutcome s first bound k r)
    (h' : PollOutcome s first bound k' r') : k' = k ∧ r' = r := by
  obtain ⟨rfl, rfl, hall⟩ | ⟨j, rfl, hle, hne, rfl, hbefore⟩ := h
  · exact h'.eq_noResponse_of_silent hall
  · exact h'.eq_reply_of_fillers hbefore hle hne

/-- Settles O7: the outcome is the reply behind the fillers, by `PollOutcome.eq_reply_of_fillers`. -/
theorem pollStopsAtTheFirstReply : Obligations.PollStopsAtTheFirstReply := by
  unfold Obligations.PollStopsAtTheFirstReply
  intro n k b rest s hk hb hrx
  have hfill : ∀ j < k, s.byteAt (0 + j) = 0xFF := fun j hj => by
    rw [Nat.zero_add, State.byteAt_of_replicate_filler hrx hj]
  have hreply : s.byteAt (0 + k) = b := by
    simp [State.byteAt, hrx]
  have hdrop : s.rx.drop (k + 1) = rest := by
    rw [hrx, List.append_cons, List.drop_left' (by simp)]
  obtain ⟨k', r, ho, hpoll⟩ := poll_spec n s
  obtain ⟨rfl, rfl⟩ := ho.eq_reply_of_fillers hfill hk (hreply ▸ hb)
  have hevents : pollEvents s 0 (k + 1) = List.replicate k (.xchg 0xFF 0xFF) ++ [.xchg 0xFF b] := by
    rw [← pollEvents_of_silent hfill]
    simp [pollEvents, List.range_succ, ← hreply]
  rw [exec_pollResponse, hpoll, hreply, hdrop, hevents]
  simp [Resp.reply]

/-- Settles O8: `pollResponse` is the whole poll of `poll_spec`. -/
theorem pollResponseEffect : Obligations.PollResponseEffect := by
  unfold Obligations.PollResponseEffect
  intro n s
  obtain ⟨k, r, ho, hpoll⟩ := poll_spec n s
  exact ⟨k, r, ho, (exec_pollResponse n s).trans (congrArg _ hpoll)⟩

/-! ### Transactions -/

theorem runTransaction_of_none {s : State} (h : s.tph = .none) (c : Command) :
    runTransaction c s = .next (transact c s) := if_pos h

theorem runTransaction_of_ne {s : State} (h : s.tph ≠ .none) (c : Command) :
    runTransaction c s = .refused .transactionInProgress := if_neg h

/-- Outside a transaction one is carried out, and has the effect of `transact_spec`. -/
theorem runTransaction_effect {s : State} (h : s.tph = .none) (c : Command) :
    ∃ k r, PollOutcome s 7 (s.pollBoundOf c.index) k r ∧
      runTransaction c s = .next (afterTransaction s c.frame (s.pollBoundOf c.index) k r) := by
  obtain ⟨k, r, ho, ht⟩ := transact_spec c s
  exact ⟨k, r, ho, (runTransaction_of_none h c).trans (congrArg _ ht)⟩

/-- Settles O14: `sendCommand` is the transaction of its operands. -/
theorem sendCommandEffect : Obligations.SendCommandEffect := by
  unfold Obligations.SendCommandEffect
  intro index argument checksum s h
  exact runTransaction_effect h ⟨index, argument, checksum⟩

/-- A frame with its first five bytes computed. -/
theorem frameBytes_eq {index : Index} {argument : Arg} {b0 b1 b2 b3 b4 : Byte} (checksum : Byte)
    (h : [Config.startBits ||| index.setWidth 8, argument.extractLsb' 24 8, argument.extractLsb' 16 8,
      argument.extractLsb' 8 8, argument.extractLsb' 0 8] = [b0, b1, b2, b3, b4]) :
    frameBytes index argument checksum = #v[b0, b1, b2, b3, b4, checksum] := by
  simp only [List.cons.injEq, and_true] at h
  obtain ⟨rfl, rfl, rfl, rfl, rfl⟩ := h
  rfl

/-! The frames of the six commands (30_encoding.md R94). -/

theorem cmd0Operands_frame : cmd0Operands.frame = #v[0x40, 0x00, 0x00, 0x00, 0x00, 0x95] := by decide

theorem cmd8Operands_frame : cmd8Operands.frame = #v[0x48, 0x00, 0x00, 0x01, 0xAA, 0x87] := by decide

section
variable (c : Byte)

theorem cmd55Operands_frame : (cmd55Operands c).frame = #v[0x77, 0x00, 0x00, 0x00, 0x00, c] :=
  frameBytes_eq (index := Config.idxApp) (argument := Config.argApp) c (by decide)

theorem cmd41Operands_frame : (cmd41Operands c).frame = #v[0x69, 0x40, 0x00, 0x00, 0x00, c] :=
  frameBytes_eq (index := Config.idxOpcond) (argument := Config.argOpcond) c (by decide)

theorem cmd58Operands_frame : (cmd58Operands c).frame = #v[0x7A, 0x00, 0x00, 0x00, 0x00, c] :=
  frameBytes_eq (index := Config.idxOcr) (argument := Config.argOcr) c (by decide)

theorem cmd16Operands_frame : (cmd16Operands c).frame = #v[0x50, 0x00, 0x00, 0x02, 0x00, c] :=
  frameBytes_eq (index := Config.idxBlklen) (argument := Config.blockLen) c (by decide)

end

/-- Settles O15: each card command is the transaction of its operands, and their frames are known. -/
theorem cardCommandsAreTransactions : Obligations.CardCommandsAreTransactions := by
  unfold Obligations.CardCommandsAreTransactions
  intro s h
  rw [← cmd0Operands_frame, ← cmd8Operands_frame]
  refine ⟨runTransaction_effect h cmd0Operands, runTransaction_effect h cmd8Operands, fun c => ?_⟩
  rw [← cmd55Operands_frame, ← cmd41Operands_frame, ← cmd58Operands_frame, ← cmd16Operands_frame]
  exact ⟨runTransaction_effect h (cmd55Operands c), runTransaction_effect h (cmd41Operands c),
    runTransaction_effect h (cmd58Operands c), runTransaction_effect h (cmd16Operands c)⟩

/-- `ACMD41` outside a transaction: both transactions, the second after the first. -/
theorem execAcmd41_of_none {s : State} (h : s.tph = .none) (c : Byte) :
    execAcmd41 c s = .next (transact (cmd41Operands c) (transact (cmd55Operands c) s)) := if_pos h

theorem execAcmd41_of_ne {s : State} (h : s.tph ≠ .none) (c : Byte) :
    execAcmd41 c s = .refused .transactionInProgress := if_neg h

/-- Settles O16: the first transaction ends outside any phase (`transact_kept`), so the second is carried out too. -/
theorem acmd41IsTwoTransactions : Obligations.Acmd41IsTwoTransactions := by
  unfold Obligations.Acmd41IsTwoTransactions
  intro c s h
  obtain ⟨hmid, -⟩ := transact_kept (cmd55Operands c) s
  obtain ⟨hend, hsel, -⟩ := transact_kept (cmd41Operands c) (transact (cmd55Operands c) s)
  exact ⟨_, _, runTransaction_of_none h (cmd55Operands c), runTransaction_of_none hmid (cmd41Operands c),
    execAcmd41_of_none h c, hend, hsel⟩

/-- Settles O17: in a phase, `runTransaction` and `execAcmd41` refuse. -/
theorem noTransactionInsideATransaction : Obligations.NoTransactionInsideATransaction := by
  unfold Obligations.NoTransactionInsideATransaction
  intro i a c s h
  exact ⟨runTransaction_of_ne h cmd0Operands, runTransaction_of_ne h cmd8Operands,
    runTransaction_of_ne h (cmd55Operands c), runTransaction_of_ne h (cmd41Operands c),
    runTransaction_of_ne h (cmd58Operands c), runTransaction_of_ne h (cmd16Operands c), execAcmd41_of_ne h c,
    runTransaction_of_ne h ⟨i, a, c⟩⟩

end Sys2Proof.Machine
end

section
/-!
The sequencer at one program point or in one phase (43_init_sequence.md, 60_exceptions.md): what each single step does.
A transaction point is left in the step of the release byte, `step_release`, by the check of that point.
-/

namespace Sys2Proof.Machine

/-! ### Dispatch -/

theorem step_undecodable {s : State} {p : Packet} {e : DecodeError} (hr : s.rst = false) (hs : s.slot = some p)
    (hd : decode p = .error e) : step s = .refused (.undecodable e) := by
  simp [step, fetch, hr, hs, hd]

/-- Settles O19: the three branches of the dispatch. -/
theorem stepRunsThePlacedOperation : Obligations.StepRunsThePlacedOperation := by
  unfold Obligations.StepRunsThePlacedOperation
  intro s hr
  exact ⟨fun _ _ hs hd => step_slot hr hs hd, fun _ _ hs hd => step_undecodable hr hs hd, step_tick hr⟩

/-- Settles O36: `step_reset`; the record of the statement is that of `applyReset`. -/
theorem resetGivesTheResetValues : Obligations.ResetGivesTheResetValues := by
  unfold Obligations.ResetGivesTheResetValues
  exact fun s hr => step_reset hr

/-- Settles O37: of the cases of `tick_cases` only the one that waits is left. -/
theorem blockWaitsForItsCollaborator : Obligations.BlockWaitsForItsCollaborator := by
  unfold Obligations.BlockWaitsForItsCollaborator
  intro s hr hs hreq hack
  obtain ⟨hwait, -⟩ | ⟨-, hreq' | hack'⟩ := tick_cases s
  · rw [step_tick hr hs, hwait]
  · exact absurd hreq' hreq
  · exact absurd (hack.symm.trans hack') Bool.false_ne_true

/-! ### Start, delay and the end of a run -/

theorem request_idle {s : State} (hp : s.seq = .idle) : s.request = none := by
  unfold State.request; rw [hp]

theorem step_idle {s : State} (hr : s.rst = false) (hs : s.slot = none) (hp : s.seq = .idle) :
    step s = .next (if s.start then s.acceptStart else s) := by
  rw [step_internal hr hs (request_idle hp), advance_idle hp]

/-- Settles O20: `step_idle` with the start raised and without. -/
theorem startIsAcceptedWhenIdle : Obligations.StartIsAcceptedWhenIdle := by
  unfold Obligations.StartIsAcceptedWhenIdle
  intro s hr hs hp
  constructor
  · intro hstart
    rw [step_idle hr hs hp, if_pos hstart]
    rfl
  · intro hstart
    rw [step_idle hr hs hp, if_neg (by simp [hstart])]

/-- Settles O23: the one step of `S1_DELAY`. -/
theorem powerUpDelay : Obligations.PowerUpDelay := by
  unfold Obligations.PowerUpDelay
  intro s hlive hp
  rw [step_live hlive, advance_s1Delay hp]
  rfl

/-- Settles O34: `S8_DESEL` issues no command, so the card is deselected there; the speed is in the invariant. -/
theorem successfulRunEnds : Obligations.SuccessfulRunEnds := by
  unfold Obligations.SuccessfulRunEnds
  intro s hlive hinv hp
  obtain ⟨-, hsel⟩ := hinv.deselected (by rw [hp, Seq.isTransaction])
  refine ⟨hsel, finalizeDesel s, ?_, rfl, hinv.desel_speed hp, rfl⟩
  rw [step_live hlive, advance_s8Desel hp]

/-! ### The checks -/

/-- The exchange of the release byte, which ends the transaction (R147). -/
def State.release (s : State) : State := (s.xchg Config.filler).enterPhase .none

theorem State.release_eq (s : State) : s.release =
    { s with
      tph := .none, rx := s.rx.drop 1, rxCount := s.rxCount + 1,
      events := .xchg 0xFF (s.byteAt 0) :: s.events } := by
  rw [State.release, State.xchg_eq]
  rfl

/-- The step of the release byte ends the transaction and makes the check of the point (R147). -/
theorem advance_release {s : State} (hpoint : s.seq.isTransaction = true) (htph : s.tph = .trail) :
    advance s = check s.release := by
  obtain ⟨c, hc⟩ := isTransaction_iff.mp hpoint
  exact (advance_transaction hc).trans (advanceTransaction_trail c htph)

theorem step_release {s : State} (hlive : s.Live) (hpoint : s.seq.isTransaction = true) (htph : s.tph = .trail) :
    step s = .next (check s.release) := by
  rw [step_live hlive, advance_release hpoint htph]

/-- Settles O25: the release byte, then `checkReset`. -/
theorem resetCheck : Obligations.ResetCheck := by
  unfold Obligations.ResetCheck
  intro s hlive hp htph u
  rw [step_release hlive (by rw [hp, Seq.isTransaction]) htph, check_s2Reset (s := s.release) hp, State.release_eq]
  simp only [checkReset, Resp.is_iff]
  rfl

/-- Settles O26: the release byte, then `checkIfcond`; after the failure the block is idle. -/
theorem ifcondCheck : Obligations.IfcondCheck := by
  unfold Obligations.IfcondCheck
  intro s hlive hp htph u failed
  constructor
  · rw [step_release hlive (by rw [hp, Seq.isTransaction]) htph, check_s3Ifcond (s := s.release) hp, State.release_eq]
    simp only [checkIfcond, Resp.is_iff]
    rfl
  · intro hstart
    obtain ⟨hr, hs, -⟩ := hlive
    have hstay := step_idle (s := failed) hr hs rfl
    rwa [if_neg (by simp [failed, u, hstart])] at hstay

/-- Settles O27: the release byte, then `checkApp`, which tests nothing. -/
theorem appResponseIsIgnored : Obligations.AppResponseIsIgnored := by
  unfold Obligations.AppResponseIsIgnored
  intro s hlive hp htph
  rw [step_release hlive (by rw [hp, Seq.isTransaction]) htph, check_s4App (s := s.release) hp, State.release_eq]
  rfl

/-- Settles O28: the release byte, then `checkOpcond`. -/
theorem opcondCheck : Obligations.OpcondCheck := by
  unfold Obligations.OpcondCheck
  intro s hlive hp htph u
  rw [step_release hlive (by rw [hp, Seq.isTransaction]) htph, check_s4Opcond (s := s.release) hp, State.release_eq]
  simp only [checkOpcond, Resp.is_iff]
  rfl

/-- Settles O29: the release byte, then `checkOcrcmd`. -/
theorem ocrCommandCheck : Obligations.OcrCommandCheck := by
  unfold Obligations.OcrCommandCheck
  intro s hlive hp htph u
  rw [step_release hlive (by rw [hp, Seq.isTransaction]) htph, check_s5Ocrcmd (s := s.release) hp, State.release_eq]
  simp only [checkOcrcmd, Resp.is_iff]
  rfl

theorem checkBlklen_of_ready {s : State} (h : s.resp = ⟨false, 0x00⟩) :
    checkBlklen s = (s.setCardState .blockLengthSet).goto .s8Speed := by
  rw [checkBlklen, if_pos ((Resp.is_iff _ Config.r1Ready).mpr h)]

theorem checkBlklen_of_ne {s : State} (h : s.resp ≠ ⟨false, 0x00⟩) :
    checkBlklen s = ((s.warn.diag Config.wBlklen).setCardState .blockLengthSet).goto .s8Speed := by
  rw [checkBlklen, if_neg (mt (Resp.is_iff _ Config.r1Ready).mp h)]

theorem State.diag_of_sink {s : State} (h : s.params.diagSink = true) (code : BitVec 3) :
    s.diag code = s.emit (.diag code) := if_pos h

theorem State.diag_of_no_sink {s : State} (h : ¬s.params.diagSink = true) (code : BitVec 3) : s.diag code = s :=
  if_neg h

/-- Settles O32: the release byte, then `checkBlklen`, with a reply of zero, with a warning and the diagnostic event, or
with a warning alone. -/
theorem blockLengthFailureIsAWarning : Obligations.BlockLengthFailureIsAWarning := by
  unfold Obligations.BlockLengthFailureIsAWarning
  intro s hlive hp htph u
  rw [step_release hlive (by rw [hp, Seq.isTransaction]) htph, check_s7Blklen (s := s.release) hp]
  by_cases hready : s.resp = ⟨false, 0x00⟩
  · rw [if_pos hready, checkBlklen_of_ready (s := s.release) hready, State.release_eq]
    rfl
  · rw [if_neg hready, checkBlklen_of_ne (s := s.release) hready]
    by_cases hsink : s.params.diagSink = true
    · rw [if_pos hsink, State.diag_of_sink (s := s.release.warn) hsink, State.release_eq]
      rfl
    · rw [if_neg hsink, State.diag_of_no_sink (s := s.release.warn) hsink, State.release_eq]
      rfl

end Sys2Proof.Machine
end

section
/-!
Received bytes (20_memory.md R67, 30_encoding.md R95, R96): a RESP row completes the exchange being made with its byte.
What the exchange then does depends on the point and the phase alone; an exchange made to send discards the byte.
-/

namespace Sys2Proof.Machine

/-! ### The rows -/

theorem receive_of_no_exchange {s : State} (h : ∀ tx, s.request ≠ some (.xchg tx)) (b : Byte) : receive b s = s := by
  unfold receive
  split
  case h_1 tx hreq => exact absurd hreq (h tx)
  all_goals rfl

/-- Settles O10: without an exchange `receive` leaves the state as it is. -/
theorem noExchangeNoByte : Obligations.NoExchangeNoByte := by
  unfold Obligations.NoExchangeNoByte
  intro s h
  exact ⟨congrArg _ (receive_of_no_exchange h _), congrArg _ (receive_of_no_exchange h _),
    congrArg _ (receive_of_no_exchange h _), fun _ => congrArg _ (receive_of_no_exchange h _)⟩

/-- Listing the next byte again gives the state back. -/
theorem State.offer_next {s : State} {b : Byte} {rest : List Byte} (h : s.rx = b :: rest) :
    ({ s with rx := rest } : State).offer [b] = s := by
  cases s
  cases h
  rfl

/-- In an exchange a RESP row is the sequencer's move with the byte listed. -/
theorem exec_received_exchange {s : State} {i : Instr} {b tx : Byte} (hi : receivedByte i = some b)
    (hreq : s.request = some (.xchg tx)) : exec i s = .next (advance (s.offer [b])) := by
  rw [exec_received hi, receive_exchange hreq]

/-- Settles O11: the row lists the byte that the step finds listed. -/
theorem exchangeStepIsTheRowOfItsByte : Obligations.ExchangeStepIsTheRowOfItsByte := by
  unfold Obligations.ExchangeStepIsTheRowOfItsByte
  intro s i b tx rest hlive hreq hi hrx
  have hreq : ({ s with rx := rest } : State).request = some (.xchg tx) := hreq
  rw [exec_received_exchange hi hreq, State.offer_next hrx, step_live hlive]

/-! ### In a poll -/

section Poll

variable {s : State}

theorem advance_poll (hpoint : s.seq.isTransaction = true) (htph : s.tph = .poll) : advance s = advancePoll s := by
  obtain ⟨c, hc⟩ := isTransaction_iff.mp hpoint
  exact (advance_transaction hc).trans (advanceTransaction_poll c htph)

theorem request_poll (hpoint : s.seq.isTransaction = true) (htph : s.tph = .poll) :
    s.request = if s.polls < s.bound then some (.xchg Config.filler) else none :=
  (request_transaction hpoint).trans (phaseRequest_poll htph)

theorem advancePoll_filler (hlt : s.polls < s.bound) (hb : s.nextByte = 0xFF) : advancePoll s = s.pollXchg := by
  rw [advancePoll, if_pos hlt]
  exact if_pos hb

theorem advancePoll_reply (hlt : s.polls < s.bound) (hb : s.nextByte ≠ 0xFF) :
    advancePoll s = (s.pollXchg.setResp (.reply s.nextByte)).enterPhase .deassert := by
  rw [advancePoll, if_pos hlt]
  exact if_neg hb

theorem advancePoll_bound (hle : s.bound ≤ s.polls) :
    advancePoll s = (s.setResp .noResponse).enterPhase .deassert := by
  rw [advancePoll, if_neg (Nat.not_lt.mpr hle)]

/-- Settles O55: with no exchange left the poll raises no call, and ends with NoResponse. -/
theorem pollEndsAtItsBound : Obligations.PollEndsAtItsBound := by
  unfold Obligations.PollEndsAtItsBound
  intro s hr hs hpoint htph hle
  have hreq : s.request = none := (request_poll hpoint htph).trans (if_neg (Nat.not_lt.mpr hle))
  rw [step_internal hr hs hreq, advance_poll hpoint htph, advancePoll_bound hle]
  rfl

theorem exec_received_poll {i : Instr} {b : Byte} (hi : receivedByte i = some b) (hpoint : s.seq.isTransaction = true)
    (htph : s.tph = .poll) (hlt : s.polls < s.bound) : exec i s = .next (advancePoll (s.offer [b])) := by
  have hpoint' : (s.offer [b]).seq.isTransaction = true := hpoint
  rw [exec_received_exchange hi ((request_poll hpoint htph).trans (if_pos hlt)), advance_poll hpoint' htph]

/-- Settles O9: a filler by `advancePoll_filler`, each reply by `advancePoll_reply`. -/
theorem receivedByteDuringAPoll : Obligations.ReceivedByteDuringAPoll := by
  unfold Obligations.ReceivedByteDuringAPoll
  intro s hpoint htph hlt
  have hreply {i : Instr} {r : Byte} (hi : receivedByte i = some r) (hr : r ≠ 0xFF) : exec i s = .next
      { s with polls := s.polls + 1, rxCount := s.rxCount + 1, events := .xchg 0xFF r :: s.events,
               resp := ⟨false, r⟩, tph := .deassert } :=
    (exec_received_poll hi hpoint htph hlt).trans (congrArg _ (advancePoll_reply (s := s.offer [r]) hlt hr))
  exact ⟨(exec_received_poll rfl hpoint htph hlt).trans (congrArg _ (advancePoll_filler (s := s.offer [0xFF]) hlt rfl)),
    hreply rfl (by decide), hreply rfl (by decide), fun r => hreply rfl⟩

end Poll

/-! ### In the other exchanges -/

section Exchange

variable {s : State}

theorem advanceClocks_of_lt (h : s.bidx.toNat + 1 < 10) : advanceClocks s = s.sendXchg Config.filler := if_pos h

theorem advanceClocks_last (h : s.bidx = 9) :
    advanceClocks s = ((s.sendXchg Config.filler).setAttempt 0).goto .s2Reset := by
  rw [advanceClocks, h]
  rfl

theorem advanceOcr_of_lt (h : s.bidx.toNat + 1 < 4) : advanceOcr s = s.ocrXchg := if_pos h

theorem advanceOcr_last (h : s.bidx = 3) : advanceOcr s = s.ocrXchg.goto .s6Classify := by
  rw [advanceOcr, h]
  rfl

theorem advanceFrame_of_lt {b : Byte} (c : Command) (hb : s.frameByte = some b) (h : s.bidx.toNat + 1 < 6) :
    advanceFrame c s = s.sendXchg b := by
  rw [advanceFrame, hb]
  exact if_pos h

theorem advanceFrame_last {b : Byte} (c : Command) (hb : s.frameByte = some b) (h : ¬s.bidx.toNat + 1 < 6) :
    advanceFrame c s = enterPoll c (s.sendXchg b) := by
  rw [advanceFrame, hb]
  exact if_neg h

theorem request_s5Ocrbytes (hp : s.seq = .s5Ocrbytes) (hb : s.bidx.toNat < 4) :
    s.request = some (.xchg Config.filler) := by
  unfold State.request
  rw [hp]
  exact if_pos hb

theorem request_settle (hpoint : s.seq.isTransaction = true) (htph : s.tph = .settle) :
    s.request = some (.xchg Config.filler) := by
  rw [request_transaction hpoint, State.phaseRequest, htph]

theorem request_trail (hpoint : s.seq.isTransaction = true) (htph : s.tph = .trail) :
    s.request = some (.xchg Config.filler) := by
  rw [request_transaction hpoint, State.phaseRequest, htph]

theorem request_frame (hpoint : s.seq.isTransaction = true) (htph : s.tph = .frame) :
    s.request = s.frameByte.map .xchg :=
  (request_transaction hpoint).trans (phaseRequest_frame htph)

/-- Within a byte loop of `n` bytes the counter is below its last value or at it. -/
theorem bidx_lt_or_last {b : BitVec 4} {n : Nat} (h : b.toNat < n) (hne : b ≠ BitVec.ofNat 4 (n - 1))
    (hn : n < 16) : b.toNat + 1 < n := by
  have : b.toNat ≠ n - 1 := fun he => hne (by rw [← he, BitVec.ofNat_toNat, BitVec.setWidth_eq])
  omega

/-- Shifting a byte into the OCR drops its first byte. -/
theorem shiftIn_eq_append (o : BitVec 32) (b : Byte) :
    (o <<< 8 ||| b.setWidth 32) = o.extractLsb' 0 24 ++ b := by
  apply BitVec.eq_of_getLsbD_eq
  intro i hi
  simp only [BitVec.getLsbD_or, BitVec.getLsbD_shiftLeft, BitVec.getLsbD_setWidth, BitVec.getLsbD_append,
    BitVec.getLsbD_extractLsb']
  by_cases h8 : i < 8
  · simp [h8, hi]
  · simp [h8, hi, show i - 8 < 24 by omega, BitVec.getLsbD_of_ge b i (by omega)]

end Exchange

/-- Settles O52: exchange by exchange, the last byte of each loop apart. -/
theorem receivedByteOutsideAPoll : Obligations.ReceivedByteOutsideAPoll := by
  unfold Obligations.ReceivedByteOutsideAPoll
  intro s i b hi
  refine ⟨?clocks, ?settle, ?frame, ?release, ?ocr⟩
  case clocks =>
    intro hp hb u
    rw [exec_received_exchange hi (request_s1Clocks hp hb), advance_s1Clocks (s := s.offer [b]) hp]
    by_cases hlast : s.bidx = 9
    · rw [if_pos hlast, advanceClocks_last (s := s.offer [b]) hlast]
      rfl
    · rw [if_neg hlast, advanceClocks_of_lt (s := s.offer [b]) (bidx_lt_or_last hb hlast (by decide))]
      rfl
  case settle =>
    intro hpoint htph
    obtain ⟨c, hc⟩ := isTransaction_iff.mp hpoint
    rw [exec_received_exchange hi (request_settle hpoint htph), advance_transaction (s := s.offer [b]) hc,
      advanceTransaction_settle (s := s.offer [b]) c htph]
    rfl
  case frame =>
    intro c k hc htph hk u
    have hpoint : s.seq.isTransaction = true := isTransaction_iff.mpr ⟨c, hc⟩
    have hidx : s.bidx.toNat = k := by
      rw [hk, BitVec.toNat_ofNat, Nat.mod_eq_of_lt (by omega)]
    have hbyte : s.frameByte = some s.frame[k] := by
      rw [State.frameByte, hidx]
      simp
    rw [exec_received_exchange hi ((request_frame hpoint htph).trans (congrArg _ hbyte)),
      advance_transaction (s := s.offer [b]) hc, advanceTransaction_frame (s := s.offer [b]) c htph]
    by_cases hlast : k = 5
    · rw [if_pos hlast, advanceFrame_last (s := s.offer [b]) c hbyte (by rw [State.offer_bidx, hidx, hlast]; decide)]
      rfl
    · rw [if_neg hlast, advanceFrame_of_lt (s := s.offer [b]) c hbyte (by rw [State.offer_bidx, hidx]; omega)]
      rfl
  case release =>
    intro hpoint htph
    rw [exec_received_exchange hi (request_trail hpoint htph), advance_release (s := s.offer [b]) hpoint htph]
    rfl
  case ocr =>
    intro hp hb u
    rw [exec_received_exchange hi (request_s5Ocrbytes hp hb), advance_s5Ocrbytes (s := s.offer [b]) hp]
    have hxchg : (s.offer [b]).ocrXchg = u := by
      simp only [u, ← shiftIn_eq_append]
      rfl
    by_cases hlast : s.bidx = 3
    · rw [if_pos hlast, advanceOcr_last (s := s.offer [b]) hlast, hxchg]
      rfl
    · rw [if_neg hlast, advanceOcr_of_lt (s := s.offer [b]) (bidx_lt_or_last hb hlast (by decide)), hxchg]

end Sys2Proof.Machine
end

section
/-!
The OCR read (43_init_sequence.md R178, R180): everything the four exchanges do, by the sequencer's steps and by the OCR
row.
-/

namespace Sys2Proof.Machine

/-- Everything one OCR exchange does. -/
theorem State.ocrXchg_eq (s : State) : s.ocrXchg =
    { s with
      ocr := s.ocr <<< 8 ||| (s.byteAt 0).setWidth 32, bidx := s.bidx + 1, rx := s.rx.drop 1,
      rxCount := s.rxCount + 1, events := .xchg 0xFF (s.byteAt 0) :: s.events } := by
  rw [State.ocrXchg, State.xchg_eq, State.nextByte_eq]
  rfl

/-- Everything the four OCR exchanges do: the four bytes replace the OCR, the first one most significant. -/
theorem ocrExchanges_eq (s : State) : ocrExchanges s =
    { s with
      ocr := ofBytes32 (s.byteAt 0) (s.byteAt 1) (s.byteAt 2) (s.byteAt 3), bidx := s.bidx + 4, rx := s.rx.drop 4,
      rxCount := s.rxCount + 4, events := (pollEvents s 0 4).reverse ++ s.events } := by
  rw [← shiftIn_ofBytes32 s.ocr]
  simp only [ocrExchanges, State.ocrXchg_eq, List.drop_drop, BitVec.add_assoc, pollEvents, List.range_succ,
    List.range_zero]
  simp [State.byteAt, Nat.add_assoc]

/-- On the four bytes of an OCR word the four exchanges read that word. -/
theorem ocrExchanges_of_ocrBytes {s : State} {w : BitVec 32} {rest : List Byte} (h : s.rx = ocrBytes w ++ rest) :
    ocrExchanges s =
      { s with
        ocr := w, bidx := s.bidx + 4, rx := rest, rxCount := s.rxCount + 4,
        events := .xchg 0xFF (w.extractLsb' 0 8) :: .xchg 0xFF (w.extractLsb' 8 8) ::
          .xchg 0xFF (w.extractLsb' 16 8) :: .xchg 0xFF (w.extractLsb' 24 8) :: s.events } := by
  have h0 : s.byteAt 0 = w.extractLsb' 24 8 := by rw [State.byteAt, h]; rfl
  have h1 : s.byteAt 1 = w.extractLsb' 16 8 := by rw [State.byteAt, h]; rfl
  have h2 : s.byteAt 2 = w.extractLsb' 8 8 := by rw [State.byteAt, h]; rfl
  have h3 : s.byteAt 3 = w.extractLsb' 0 8 := by rw [State.byteAt, h]; rfl
  have hdrop : s.rx.drop 4 = rest := by rw [h]; rfl
  rw [ocrExchanges_eq, h0, h1, h2, h3, hdrop, ofBytes32_extract]
  simp [pollEvents, List.range_succ, h0, h1, h2, h3]

/-- Settles O13: at the start of the read the row is `ocrExchanges` on the bytes of its word, and the classification. -/
theorem ocrReplyIsAssembledAndClassified : Obligations.OcrReplyIsAssembledAndClassified := by
  unfold Obligations.OcrReplyIsAssembledAndClassified
  intro w s
  constructor
  · intro hp hb
    have hread : exec (.ocr w) s = .next (classify (readOcr (s.offer (ocrBytes w)))) :=
      congrArg _ (if_pos ⟨hp, hb⟩)
    rw [hread, readOcr, ocrExchanges_of_ocrBytes (s := s.offer (ocrBytes w)) rfl, State.offer_bidx, hb]
    rfl
  · intro hne
    exact congrArg _ (if_neg (by tauto))

/-- A step of the OCR read before its last byte. -/
theorem step_s5Ocrbytes_of_lt {s : State} (hlive : s.Live) (hp : s.seq = .s5Ocrbytes) (hb : s.bidx.toNat + 1 < 4) :
    step s = .next s.ocrXchg := by
  rw [step_live hlive, advance_s5Ocrbytes hp, advanceOcr_of_lt hb]

theorem step_s5Ocrbytes_last {s : State} (hlive : s.Live) (hp : s.seq = .s5Ocrbytes) (hb : s.bidx = 3) :
    step s = .next (s.ocrXchg.goto .s6Classify) := by
  rw [step_live hlive, advance_s5Ocrbytes hp, advanceOcr_last hb]

/-- The sequencer reads the OCR in four steps. -/
theorem run_s5Ocrbytes {s : State} (hlive : s.Live) (hp : s.seq = .s5Ocrbytes) (hb : s.bidx = 0) :
    core.run 4 s = .next (readOcr s) := by
  have h1 : s.ocrXchg.bidx = 1 := by rw [State.ocrXchg_bidx, hb]; rfl
  have h2 : s.ocrXchg.ocrXchg.bidx = 2 := by rw [State.ocrXchg_bidx, h1]; rfl
  have h3 : s.ocrXchg.ocrXchg.ocrXchg.bidx = 3 := by rw [State.ocrXchg_bidx, h2]; rfl
  rw [run_succ (step_s5Ocrbytes_of_lt hlive hp (by rw [hb]; decide)),
    run_succ (step_s5Ocrbytes_of_lt (s := s.ocrXchg) hlive hp (by rw [h1]; decide)),
    run_succ (step_s5Ocrbytes_of_lt (s := s.ocrXchg.ocrXchg) hlive hp (by rw [h2]; decide)),
    run_one (step_s5Ocrbytes_last (s := s.ocrXchg.ocrXchg.ocrXchg) hlive hp h3)]
  rfl

/-- Settles O30: the four steps are `readOcr`, which `ocrExchanges_eq` spells out. -/
theorem fourOcrBytes : Obligations.FourOcrBytes := by
  unfold Obligations.FourOcrBytes
  intro s hlive hp hb
  rw [run_s5Ocrbytes hlive hp hb, readOcr, ocrExchanges_eq, hb]
  rfl

end Sys2Proof.Machine
end

section
/-!
What a step of the sequencer can do, said once: `Judged s f` says under which condition the check of a program point is
the update `f`, and `Move s f` the same of the whole of `advance`. A statement about every step is then one case per
constructor, with the condition at hand.
-/

namespace Sys2Proof.Machine

/-! ### The checks -/

/-- The check made in `s` is the update `f` (43_init_sequence.md R166, R169, R171, R173, R177, R183). -/
inductive Judged (s : State) : (State → State) → Prop where
  | resetPassed : s.seq = .s2Reset → s.resp = ⟨false, 0x01⟩ →
      Judged s fun s => ((s.setAttempt (s.attempt + 1)).setCardState .reset).goto .s3Ifcond
  | resetFailed : s.seq = .s2Reset → s.resp ≠ ⟨false, 0x01⟩ → s.attempt + 1 = 200 →
      Judged s fun s => (s.setAttempt (s.attempt + 1)).raiseInitError .resetFailed
  | resetAgain : s.seq = .s2Reset → s.resp ≠ ⟨false, 0x01⟩ → s.attempt + 1 ≠ 200 →
      Judged s fun s => s.setAttempt (s.attempt + 1)
  | ifcondPassed : s.seq = .s3Ifcond → s.resp = ⟨false, 0x01⟩ →
      Judged s fun s => ((s.setCardState .versionChecked).setIter 0).goto .s4App
  | ifcondFailed : s.seq = .s3Ifcond → s.resp ≠ ⟨false, 0x01⟩ →
      Judged s fun s => s.raiseInitError .unsupportedCard
  | app : s.seq = .s4App → Judged s fun s => s.goto .s4Opcond
  | opcondPassed : s.seq = .s4Opcond → s.resp = ⟨false, 0x00⟩ →
      Judged s fun s => ((s.setIter (s.iter + 1)).setCardState .voltageNegotiated).goto .s5Ocrcmd
  | opcondFailed : s.seq = .s4Opcond → s.resp ≠ ⟨false, 0x00⟩ → s.iter + 1 = 65535 →
      Judged s fun s => (s.setIter (s.iter + 1)).raiseInitError .voltageNegotiationTimeout
  | opcondAgain : s.seq = .s4Opcond → s.resp ≠ ⟨false, 0x00⟩ → s.iter + 1 ≠ 65535 →
      Judged s fun s => (s.setIter (s.iter + 1)).goto .s4App
  | ocrcmdPassed : s.seq = .s5Ocrcmd → s.resp = ⟨false, 0x00⟩ → Judged s fun s => (s.setBidx 0).goto .s5Ocrbytes
  | ocrcmdFailed : s.seq = .s5Ocrcmd → s.resp ≠ ⟨false, 0x00⟩ → Judged s fun s => s.raiseInitError .ocrReadError
  | blklenPassed : s.seq = .s7Blklen → s.resp = ⟨false, 0x00⟩ →
      Judged s fun s => (s.setCardState .blockLengthSet).goto .s8Speed
  | blklenReported : s.seq = .s7Blklen → s.resp ≠ ⟨false, 0x00⟩ → s.params.diagSink = true →
      Judged s fun s => ((s.warn.emit (.diag Config.wBlklen)).setCardState .blockLengthSet).goto .s8Speed
  | blklenWarned : s.seq = .s7Blklen → s.resp ≠ ⟨false, 0x00⟩ → s.params.diagSink ≠ true →
      Judged s fun s => (s.warn.setCardState .blockLengthSet).goto .s8Speed
  | none : s.seq.isTransaction = false → Judged s fun s => s

theorem Seq.eq_of_isTransaction {p : Seq} (h : p.isTransaction = true) :
    p = .s2Reset ∨ p = .s3Ifcond ∨ p = .s4App ∨ p = .s4Opcond ∨ p = .s5Ocrcmd ∨ p = .s7Blklen := by
  revert h
  cases p <;> simp [Seq.isTransaction]

/-- In every state the check is one of these. -/
theorem exists_judged (s : State) : ∃ f, Judged s f := by
  by_cases hpoint : s.seq.isTransaction = true
  case neg => exact ⟨_, .none (by simpa using hpoint)⟩
  obtain hp | hp | hp | hp | hp | hp := Seq.eq_of_isTransaction hpoint
  · by_cases hr : s.resp = ⟨false, 0x01⟩
    · exact ⟨_, .resetPassed hp hr⟩
    · by_cases ha : s.attempt + 1 = 200
      · exact ⟨_, .resetFailed hp hr ha⟩
      · exact ⟨_, .resetAgain hp hr ha⟩
  · by_cases hr : s.resp = ⟨false, 0x01⟩
    · exact ⟨_, .ifcondPassed hp hr⟩
    · exact ⟨_, .ifcondFailed hp hr⟩
  · exact ⟨_, .app hp⟩
  · by_cases hr : s.resp = ⟨false, 0x00⟩
    · exact ⟨_, .opcondPassed hp hr⟩
    · by_cases hi : s.iter + 1 = 65535
      · exact ⟨_, .opcondFailed hp hr hi⟩
      · exact ⟨_, .opcondAgain hp hr hi⟩
  · by_cases hr : s.resp = ⟨false, 0x00⟩
    · exact ⟨_, .ocrcmdPassed hp hr⟩
    · exact ⟨_, .ocrcmdFailed hp hr⟩
  · by_cases hr : s.resp = ⟨false, 0x00⟩
    · exact ⟨_, .blklenPassed hp hr⟩
    · by_cases hd : s.params.diagSink = true
      · exact ⟨_, .blklenReported hp hr hd⟩
      · exact ⟨_, .blklenWarned hp hr hd⟩

section Branches

variable {s : State}

theorem checkReset_of_idle (h : s.resp = ⟨false, 0x01⟩) :
    checkReset s = ((s.setAttempt (s.attempt + 1)).setCardState .reset).goto .s3Ifcond :=
  if_pos ((Resp.is_iff _ Config.r1Idle).mpr h)

theorem checkReset_of_ne (h : s.resp ≠ ⟨false, 0x01⟩) : checkReset s =
    if s.attempt + 1 = 200 then (s.setAttempt (s.attempt + 1)).raiseInitError .resetFailed
    else s.setAttempt (s.attempt + 1) :=
  if_neg (mt (Resp.is_iff _ Config.r1Idle).mp h)

theorem checkIfcond_of_idle (h : s.resp = ⟨false, 0x01⟩) :
    checkIfcond s = ((s.setCardState .versionChecked).setIter 0).goto .s4App :=
  if_pos ((Resp.is_iff _ Config.r1Idle).mpr h)

theorem checkIfcond_of_ne (h : s.resp ≠ ⟨false, 0x01⟩) : checkIfcond s = s.raiseInitError .unsupportedCard :=
  if_neg (mt (Resp.is_iff _ Config.r1Idle).mp h)

theorem checkOpcond_of_ready (h : s.resp = ⟨false, 0x00⟩) :
    checkOpcond s = ((s.setIter (s.iter + 1)).setCardState .voltageNegotiated).goto .s5Ocrcmd :=
  if_pos ((Resp.is_iff _ Config.r1Ready).mpr h)

theorem checkOpcond_of_ne (h : s.resp ≠ ⟨false, 0x00⟩) : checkOpcond s =
    if s.iter + 1 = 65535 then (s.setIter (s.iter + 1)).raiseInitError .voltageNegotiationTimeout
    else (s.setIter (s.iter + 1)).goto .s4App :=
  if_neg (mt (Resp.is_iff _ Config.r1Ready).mp h)

theorem checkOcrcmd_of_ready (h : s.resp = ⟨false, 0x00⟩) : checkOcrcmd s = (s.setBidx 0).goto .s5Ocrbytes :=
  if_pos ((Resp.is_iff _ Config.r1Ready).mpr h)

theorem checkOcrcmd_of_ne (h : s.resp ≠ ⟨false, 0x00⟩) : checkOcrcmd s = s.raiseInitError .ocrReadError :=
  if_neg (mt (Resp.is_iff _ Config.r1Ready).mp h)

end Branches

theorem Judged.check_eq {s : State} {f : State → State} (h : Judged s f) : check s = f s := by
  cases h with
  | resetPassed hp hr => exact (check_s2Reset hp).trans (checkReset_of_idle hr)
  | resetFailed hp hr ha => exact (check_s2Reset hp).trans ((checkReset_of_ne hr).trans (if_pos ha))
  | resetAgain hp hr ha => exact (check_s2Reset hp).trans ((checkReset_of_ne hr).trans (if_neg ha))
  | ifcondPassed hp hr => exact (check_s3Ifcond hp).trans (checkIfcond_of_idle hr)
  | ifcondFailed hp hr => exact (check_s3Ifcond hp).trans (checkIfcond_of_ne hr)
  | app hp => exact check_s4App hp
  | opcondPassed hp hr => exact (check_s4Opcond hp).trans (checkOpcond_of_ready hr)
  | opcondFailed hp hr hi => exact (check_s4Opcond hp).trans ((checkOpcond_of_ne hr).trans (if_pos hi))
  | opcondAgain hp hr hi => exact (check_s4Opcond hp).trans ((checkOpcond_of_ne hr).trans (if_neg hi))
  | ocrcmdPassed hp hr => exact (check_s5Ocrcmd hp).trans (checkOcrcmd_of_ready hr)
  | ocrcmdFailed hp hr => exact (check_s5Ocrcmd hp).trans (checkOcrcmd_of_ne hr)
  | blklenPassed hp hr => exact (check_s7Blklen hp).trans (checkBlklen_of_ready hr)
  | blklenReported hp hr hd =>
    rw [check_s7Blklen hp, checkBlklen_of_ne hr, State.diag_of_sink (s := s.warn) hd]
  | blklenWarned hp hr hd =>
    rw [check_s7Blklen hp, checkBlklen_of_ne hr, State.diag_of_no_sink (s := s.warn) hd]
  | none hpoint => exact check_other hpoint

/-- A check reads the point, the response, the sink, and the counter of its loop. -/
theorem Judged.congr {s t : State} {f : State → State} (h : Judged s f) (hp : t.seq = s.seq) (hr : t.resp = s.resp)
    (hd : t.params = s.params) (ha : t.attempt = s.attempt) (hi : s.seq = .s4Opcond → t.iter = s.iter) :
    Judged t f := by
  cases h
  case opcondFailed hs hne hit => exact .opcondFailed (hp.trans hs) (hr ▸ hne) ((hi hs).symm ▸ hit)
  case opcondAgain hs hne hit => exact .opcondAgain (hp.trans hs) (hr ▸ hne) ((hi hs).symm ▸ hit)
  all_goals
    constructor
    all_goals simpa only [hp, hr, ha, hd]

/-! ### The sequencer -/

/-- From `s` the sequencer's move is the update `f` (10_state.md R30 to R32). -/
inductive Move (s : State) : (State → State) → Prop where
  | rest : s.seq = .idle → s.start = false → Move s fun s => s
  | start : s.seq = .idle → s.start = true → Move s State.acceptStart
  | speedInit : s.seq = .s1Speed → Move s fun s => s.speedInit.goto .s1Delay
  | delay : s.seq = .s1Delay → Move s fun s => ((s.delay Config.powerupDelayMs).setBidx 0).goto .s1Clocks
  | clock : s.seq = .s1Clocks → s.bidx.toNat + 1 < 10 → Move s (State.sendXchg Config.filler)
  | lastClock : s.seq = .s1Clocks → s.bidx.toNat = 9 →
      Move s fun s => ((s.sendXchg Config.filler).setAttempt 0).goto .s2Reset
  | clocksOver : s.seq = .s1Clocks → 10 ≤ s.bidx.toNat → Move s fun s => (s.setAttempt 0).goto .s2Reset
  | build (c : Command) : pointCommand s.params s.seq = some c → s.tph = .none →
      Move s fun s => (s.writeFrame c.frame).enterPhase .assert
  | select : s.seq.isTransaction = true → s.tph = .assert → Move s fun s => s.selAssert.enterPhase .settle
  | settle : s.seq.isTransaction = true → s.tph = .settle →
      Move s fun s => ((s.xchg Config.filler).setBidx 0).enterPhase .frame
  | send (b : Byte) : s.seq.isTransaction = true → s.tph = .frame → s.frameByte = some b → s.bidx.toNat + 1 < 6 →
      Move s (State.sendXchg b)
  | sendLast (c : Command) (b : Byte) : pointCommand s.params s.seq = some c → s.tph = .frame → s.frameByte = some b →
      ¬s.bidx.toNat + 1 < 6 → Move s fun s => enterPoll c (s.sendXchg b)
  | frameOver (c : Command) : pointCommand s.params s.seq = some c → s.tph = .frame → s.frameByte = none → Move s (enterPoll c)
  | pollFiller : s.seq.isTransaction = true → s.tph = .poll → s.polls < s.bound → s.nextByte = 0xFF →
      Move s State.pollXchg
  | pollReply : s.seq.isTransaction = true → s.tph = .poll → s.polls < s.bound → s.nextByte ≠ 0xFF →
      Move s fun s => (s.pollXchg.setResp (.reply s.nextByte)).enterPhase .deassert
  | pollBound : s.seq.isTransaction = true → s.tph = .poll → s.bound ≤ s.polls →
      Move s fun s => (s.setResp .noResponse).enterPhase .deassert
  | deselect : s.seq.isTransaction = true → s.tph = .deassert → Move s fun s => s.selDeassert.enterPhase .trail
  | release (f : State → State) : s.seq.isTransaction = true → s.tph = .trail → Judged s f →
      Move s fun s => f s.release
  | ocr : s.seq = .s5Ocrbytes → s.bidx.toNat + 1 < 4 → Move s State.ocrXchg
  | lastOcr : s.seq = .s5Ocrbytes → s.bidx.toNat = 3 → Move s fun s => s.ocrXchg.goto .s6Classify
  | ocrOver : s.seq = .s5Ocrbytes → 4 ≤ s.bidx.toNat → Move s (State.goto .s6Classify)
  | classify : s.seq = .s6Classify → Move s classify
  | speedOper : s.seq = .s8Speed → Move s finalizeSpeed
  | finish : s.seq = .s8Desel → Move s finalizeDesel

theorem exists_move_transaction {s : State} (hpoint : s.seq.isTransaction = true) : ∃ f, Move s f := by
  obtain ⟨c, hc⟩ := isTransaction_iff.mp hpoint
  cases htph : s.tph with
  | none => exact ⟨_, .build c hc htph⟩
  | assert => exact ⟨_, .select hpoint htph⟩
  | settle => exact ⟨_, .settle hpoint htph⟩
  | frame =>
    cases hb : s.frameByte with
    | none => exact ⟨_, .frameOver c hc htph hb⟩
    | some b =>
      by_cases hlt : s.bidx.toNat + 1 < 6
      · exact ⟨_, .send b hpoint htph hb hlt⟩
      · exact ⟨_, .sendLast c b hc htph hb hlt⟩
  | poll =>
    by_cases hlt : s.polls < s.bound
    · by_cases hb : s.nextByte = 0xFF
      · exact ⟨_, .pollFiller hpoint htph hlt hb⟩
      · exact ⟨_, .pollReply hpoint htph hlt hb⟩
    · exact ⟨_, .pollBound hpoint htph (Nat.not_lt.mp hlt)⟩
  | deassert => exact ⟨_, .deselect hpoint htph⟩
  | trail =>
    obtain ⟨f, hf⟩ := exists_judged s
    exact ⟨_, .release f hpoint htph hf⟩

/-- In every state the sequencer has one of these moves. -/
theorem exists_move (s : State) : ∃ f, Move s f := by
  by_cases hpoint : s.seq.isTransaction = true
  case pos => exact exists_move_transaction hpoint
  cases hp : s.seq <;> simp only [hp, Seq.isTransaction, not_true_eq_false] at hpoint
  case idle =>
    cases hstart : s.start
    · exact ⟨_, .rest hp hstart⟩
    · exact ⟨_, .start hp hstart⟩
  case s1Speed => exact ⟨_, .speedInit hp⟩
  case s1Delay => exact ⟨_, .delay hp⟩
  case s1Clocks =>
    rcases Nat.lt_trichotomy s.bidx.toNat 9 with hb | hb | hb
    · exact ⟨_, .clock hp (by omega)⟩
    · exact ⟨_, .lastClock hp hb⟩
    · exact ⟨_, .clocksOver hp hb⟩
  case s5Ocrbytes =>
    rcases Nat.lt_trichotomy s.bidx.toNat 3 with hb | hb | hb
    · exact ⟨_, .ocr hp (by omega)⟩
    · exact ⟨_, .lastOcr hp hb⟩
    · exact ⟨_, .ocrOver hp hb⟩
  case s6Classify => exact ⟨_, .classify hp⟩
  case s8Speed => exact ⟨_, .speedOper hp⟩
  case s8Desel => exact ⟨_, .finish hp⟩

theorem advanceClocks_over {s : State} (h : 10 ≤ s.bidx.toNat) : advanceClocks s = (s.setAttempt 0).goto .s2Reset := by
  rw [advanceClocks, Config.powerupFillerBytes, if_neg (by omega), if_neg (by omega)]

theorem advanceOcr_over {s : State} (h : 4 ≤ s.bidx.toNat) : advanceOcr s = s.goto .s6Classify := by
  rw [advanceOcr, Config.ocrLen, if_neg (by omega), if_neg (by omega)]

theorem advanceFrame_over {s : State} (c : Command) (h : s.frameByte = none) : advanceFrame c s = enterPoll c s := by
  rw [advanceFrame, h]

theorem Move.advance_eq {s : State} {f : State → State} (h : Move s f) : advance s = f s := by
  cases h with
  | rest hp hstart => rw [advance_idle hp, hstart]; rfl
  | start hp hstart => rw [advance_idle hp, hstart]; rfl
  | speedInit hp => exact advance_s1Speed hp
  | delay hp => exact advance_s1Delay hp
  | clock hp hb => exact (advance_s1Clocks hp).trans (advanceClocks_of_lt hb)
  | lastClock hp hb => exact (advance_s1Clocks hp).trans (advanceClocks_last (BitVec.eq_of_toNat_eq hb))
  | clocksOver hp hb => exact (advance_s1Clocks hp).trans (advanceClocks_over hb)
  | build c hc htph => exact (advance_transaction hc).trans (advanceTransaction_none c htph)
  | select hpoint htph =>
    obtain ⟨c, hc⟩ := isTransaction_iff.mp hpoint
    exact (advance_transaction hc).trans (advanceTransaction_assert c htph)
  | settle hpoint htph =>
    obtain ⟨c, hc⟩ := isTransaction_iff.mp hpoint
    exact (advance_transaction hc).trans (advanceTransaction_settle c htph)
  | send b hpoint htph hb hlt =>
    obtain ⟨c, hc⟩ := isTransaction_iff.mp hpoint
    rw [advance_transaction hc, advanceTransaction_frame c htph, advanceFrame_of_lt c hb hlt]
  | sendLast c b hc htph hb hlt =>
    rw [advance_transaction hc, advanceTransaction_frame c htph, advanceFrame_last c hb hlt]
  | frameOver c hc htph hb => rw [advance_transaction hc, advanceTransaction_frame c htph, advanceFrame_over c hb]
  | pollFiller hpoint htph hlt hb => exact (advance_poll hpoint htph).trans (advancePoll_filler hlt hb)
  | pollReply hpoint htph hlt hb => exact (advance_poll hpoint htph).trans (advancePoll_reply hlt hb)
  | pollBound hpoint htph hle => exact (advance_poll hpoint htph).trans (advancePoll_bound hle)
  | deselect hpoint htph =>
    obtain ⟨c, hc⟩ := isTransaction_iff.mp hpoint
    exact (advance_transaction hc).trans (advanceTransaction_deassert c htph)
  | release f hpoint htph hf =>
    have hf' : Judged s.release f := hf.congr rfl rfl rfl rfl fun _ => rfl
    exact (advance_release hpoint htph).trans hf'.check_eq
  | ocr hp hb => exact (advance_s5Ocrbytes hp).trans (advanceOcr_of_lt hb)
  | lastOcr hp hb => exact (advance_s5Ocrbytes hp).trans (advanceOcr_last (BitVec.eq_of_toNat_eq hb))
  | ocrOver hp hb => exact (advance_s5Ocrbytes hp).trans (advanceOcr_over hb)
  | classify hp => exact advance_s6Classify hp
  | speedOper hp => exact advance_s8Speed hp
  | finish hp => exact advance_s8Desel hp

/-- A step of the sequencer waits, with a call raised and not completed, or makes its move. -/
theorem step_sequencer_cases {s t : State} (hs : s.slot = none) (hr : s.rst = false) (h : step s = .next t) :
    (t = s ∧ s.request ≠ none ∧ s.ack = false) ∨ ∃ f, Move s f ∧ t = f s := by
  have ht : tick s = t := by simpa only [step_tick hr hs, Host.Outcome.next.injEq] using h
  obtain ⟨hwait, hreq, hack⟩ | ⟨hadvance, -⟩ := tick_cases s
  · exact .inl ⟨ht.symm.trans hwait, hreq, hack⟩
  · obtain ⟨f, hf⟩ := exists_move s
    exact .inr ⟨f, hf, by rw [← ht, hadvance, hf.advance_eq]⟩

end Sys2Proof.Machine
end

section
/-!
Noninterference of one step: the byte received in an exchange made to send shows only in the record of events
(20_memory.md R67), and `start` shows nowhere during a run (60_exceptions.md R223).
-/

namespace Sys2Proof.Machine

/-! ### Received bytes -/

/-- Equal but for the record of events, which has as many events in both. -/
def SameButRecord (t u : State) : Prop := t = { u with events := t.events } ∧ t.events.length = u.events.length

/-- A check reads no event. -/
theorem SameButRecord.check {t u : State} (h : SameButRecord t u) : SameButRecord (check t) (check u) := by
  obtain ⟨ht, hlength⟩ := h
  obtain ⟨f, hf⟩ := exists_judged u
  have hf' : Judged t f := by
    rw [ht]
    exact hf.congr rfl rfl rfl rfl fun _ => rfl
  rw [hf.check_eq, hf'.check_eq, ht]
  cases hf
  case blklenReported => exact ⟨rfl, congrArg (· + 1) hlength⟩
  all_goals exact ⟨rfl, hlength⟩

/-- Settles O12: exchange by exchange the received byte goes into the record alone; the check of a release byte reads no
event. -/
theorem bytesReceivedWhileSendingAreDiscarded : Obligations.BytesReceivedWhileSendingAreDiscarded := by
  unfold Obligations.BytesReceivedWhileSendingAreDiscarded
  intro s a b rest hlive hsending hreq
  obtain ⟨tx, hreq⟩ := hreq
  refine ⟨_, _, step_live (s := { s with rx := a :: rest }) hlive, step_live (s := { s with rx := b :: rest }) hlive, ?_⟩
  show SameButRecord (advance { s with rx := a :: rest }) (advance { s with rx := b :: rest })
  obtain hp | ⟨hpoint, htph | htph | htph⟩ := hsending
  · have hb : s.bidx.toNat < 10 := by
      by_contra hb
      rw [State.request, hp] at hreq
      exact absurd hreq (by simp [Config.powerupFillerBytes, hb])
    rw [advance_s1Clocks (s := { s with rx := a :: rest }) hp, advance_s1Clocks (s := { s with rx := b :: rest }) hp]
    by_cases hlast : s.bidx = 9
    · rw [advanceClocks_last (s := { s with rx := a :: rest }) hlast,
        advanceClocks_last (s := { s with rx := b :: rest }) hlast]
      exact ⟨rfl, rfl⟩
    · have hlt := bidx_lt_or_last hb hlast (by decide)
      rw [advanceClocks_of_lt (s := { s with rx := a :: rest }) hlt,
        advanceClocks_of_lt (s := { s with rx := b :: rest }) hlt]
      exact ⟨rfl, rfl⟩
  · rw [(Move.settle (s := { s with rx := a :: rest }) hpoint htph).advance_eq,
      (Move.settle (s := { s with rx := b :: rest }) hpoint htph).advance_eq]
    exact ⟨rfl, rfl⟩
  · obtain ⟨c, hc⟩ := isTransaction_iff.mp hpoint
    obtain ⟨byte, hbyte, -⟩ := Option.map_eq_some_iff.mp ((request_frame hpoint htph).symm.trans hreq)
    by_cases hlt : s.bidx.toNat + 1 < 6
    · rw [(Move.send (s := { s with rx := a :: rest }) byte hpoint htph hbyte hlt).advance_eq,
        (Move.send (s := { s with rx := b :: rest }) byte hpoint htph hbyte hlt).advance_eq]
      exact ⟨rfl, rfl⟩
    · rw [(Move.sendLast (s := { s with rx := a :: rest }) c byte hc htph hbyte hlt).advance_eq,
        (Move.sendLast (s := { s with rx := b :: rest }) c byte hc htph hbyte hlt).advance_eq]
      exact ⟨rfl, rfl⟩
  · rw [advance_release (s := { s with rx := a :: rest }) hpoint htph,
      advance_release (s := { s with rx := b :: rest }) hpoint htph]
    exact SameButRecord.check ⟨rfl, rfl⟩

/-! ### The start input -/

/-- During a run the move neither depends on `start` nor writes it. -/
theorem Move.setStart {s : State} {f : State → State} (h : Move s f) (hp : s.seq ≠ .idle) (b : Bool) :
    Move { s with start := b } f ∧ f { s with start := b } = { f s with start := b } := by
  cases h
  case rest hidle _ => exact absurd hidle hp
  case start hidle _ => exact absurd hidle hp
  case release f hpoint htph hf =>
    refine ⟨.release f hpoint htph (hf.congr rfl rfl rfl rfl fun _ => rfl), ?_⟩
    cases hf <;> rfl
  all_goals
    refine ⟨?_, rfl⟩
    constructor <;> assumption

theorem tick_setStart {s : State} (hp : s.seq ≠ .idle) (b : Bool) :
    tick { s with start := b } = { tick s with start := b } := by
  obtain ⟨f, hf⟩ := exists_move s
  obtain ⟨hf', hstart⟩ := hf.setStart hp b
  have hreq : ({ s with start := b } : State).request = s.request := rfl
  rw [tick, tick, hreq, hf'.advance_eq, hf.advance_eq, hstart]
  cases hwait : s.request.isSome && !s.ack <;> rfl

/-- Settles O21: `initializeCard` acts in `IDLE` alone, and `tick_setStart` for the steps. -/
theorem startIsIgnoredDuringARun : Obligations.StartIsIgnoredDuringARun := by
  unfold Obligations.StartIsIgnoredDuringARun
  intro s b hp
  refine ⟨congrArg _ (if_neg hp), fun hs hr => ⟨tick s, step_tick hr hs, ?_⟩⟩
  rw [step_tick (s := { s with start := b }) hr hs, tick_setStart hp]

end Sys2Proof.Machine
end

section
/-!
Safety of one step of the sequencer (00_scope.md R11, 10_state.md R21, R37, R38, 20_memory.md R68): which event it emits, and
which steps change the speed, the select record and the frame. Each is one case per move.
-/

namespace Sys2Proof.Machine

/-! ### The call completed -/

/-- From `s` to `t` no call is raised and no event emitted, or the call raised is completed by its event, with at most the
diagnostic event of the step 7 check on top. -/
def CompletesItsCall (s t : State) : Prop :=
  (s.request = none ∧ t.events = s.events) ∨
  ∃ r e, s.request = some r ∧ r.completedBy e = true ∧ (t.events = e :: s.events ∨
    (s.seq = .s7Blklen ∧ s.tph = .trail ∧ t.events = .diag Config.wBlklen :: e :: s.events))

section Request

variable {s : State}

theorem CompletesItsCall.internal {t : State} (hreq : s.request = none) (he : t.events = s.events) :
    CompletesItsCall s t := .inl ⟨hreq, he⟩

theorem CompletesItsCall.call {t : State} {r : Request} {e : Event} (hreq : s.request = some r)
    (hr : r.completedBy e = true) (he : t.events = e :: s.events) : CompletesItsCall s t :=
  .inr ⟨r, e, hreq, hr, .inl he⟩

/-- The exchange that sends `tx` completes the call for it. -/
theorem Request.xchg_completedBy (tx received : Byte) : (Request.xchg tx).completedBy (.xchg tx received) = true :=
  beq_self_eq_true tx

theorem request_none (hpoint : s.seq.isTransaction = true) (htph : s.tph = .none) : s.request = none :=
  (request_transaction hpoint).trans (phaseRequest_none htph)

theorem request_assert (hpoint : s.seq.isTransaction = true) (htph : s.tph = .assert) :
    s.request = some (.select true) := by
  rw [request_transaction hpoint, State.phaseRequest, htph]

theorem request_deassert (hpoint : s.seq.isTransaction = true) (htph : s.tph = .deassert) :
    s.request = some (.select false) := by
  rw [request_transaction hpoint, State.phaseRequest, htph]

/-- A check emits nothing but the diagnostic event of step 7. -/
theorem Judged.events_eq {u : State} {f : State → State} (h : Judged s f) : (f u).events = u.events ∨
    (s.seq = .s7Blklen ∧ (f u).events = .diag Config.wBlklen :: u.events) := by
  cases h
  case blklenReported hp _ _ => exact .inr ⟨hp, rfl⟩
  all_goals exact .inl rfl

theorem Move.completesItsCall {f : State → State} (h : Move s f) : CompletesItsCall s (f s) := by
  cases h with
  | rest hp | start hp => exact .internal (request_idle hp) rfl
  | speedInit hp | delay hp | speedOper hp | finish hp =>
    exact .call (by unfold State.request; rw [hp]) (by decide) rfl
  | clock hp hb => exact .call (request_s1Clocks hp (by omega)) (Request.xchg_completedBy ..) rfl
  | lastClock hp hb => exact .call (request_s1Clocks hp (by omega)) (Request.xchg_completedBy ..) rfl
  | clocksOver hp hb =>
    refine .internal ?_ rfl
    unfold State.request
    rw [hp]
    exact if_neg (Nat.not_lt.mpr hb)
  | build c hc htph => exact .internal (request_none (isTransaction_iff.mpr ⟨c, hc⟩) htph) rfl
  | select hpoint htph => exact .call (request_assert hpoint htph) rfl rfl
  | settle hpoint htph => exact .call (request_settle hpoint htph) (Request.xchg_completedBy ..) rfl
  | send b hpoint htph hb =>
    exact .call ((request_frame hpoint htph).trans (congrArg _ hb)) (Request.xchg_completedBy ..) rfl
  | sendLast c b hc htph hb =>
    exact .call ((request_frame (isTransaction_iff.mpr ⟨c, hc⟩) htph).trans (congrArg _ hb))
      (Request.xchg_completedBy ..) rfl
  | frameOver c hc htph hb =>
    exact .internal ((request_frame (isTransaction_iff.mpr ⟨c, hc⟩) htph).trans (congrArg _ hb)) rfl
  | pollFiller hpoint htph hlt | pollReply hpoint htph hlt =>
    exact .call ((request_poll hpoint htph).trans (if_pos hlt)) (Request.xchg_completedBy ..) rfl
  | pollBound hpoint htph hle =>
    exact .internal ((request_poll hpoint htph).trans (if_neg (Nat.not_lt.mpr hle))) rfl
  | deselect hpoint htph => exact .call (request_deassert hpoint htph) rfl rfl
  | release f hpoint htph hf =>
    refine .inr ⟨_, .xchg Config.filler s.nextByte, request_trail hpoint htph, Request.xchg_completedBy .., ?_⟩
    exact hf.events_eq.imp id fun ⟨hp, he⟩ => ⟨hp, htph, he⟩
  | ocr hp hb => exact .call (request_s5Ocrbytes hp (by omega)) (Request.xchg_completedBy ..) rfl
  | lastOcr hp hb => exact .call (request_s5Ocrbytes hp (by omega)) (Request.xchg_completedBy ..) rfl
  | ocrOver hp hb =>
    refine .internal ?_ rfl
    unfold State.request
    rw [hp]
    exact if_neg (Nat.not_lt.mpr hb)
  | classify hp => exact .internal (by unfold State.request; rw [hp]) rfl

end Request

/-- Settles O43: a waiting step has a call raised and not completed; a move is one of `Move.completesItsCall`. -/
theorem oneStepCompletesTheCallRaised : Obligations.OneStepCompletesTheCallRaised := by
  unfold Obligations.OneStepCompletesTheCallRaised
  intro s t hs hr hstep
  obtain ⟨-, hreq, hack⟩ | ⟨f, hf, rfl⟩ := step_sequencer_cases hs hr hstep
  · exact ⟨fun hnone => absurd hnone hreq, fun r _ hack' => absurd (hack.symm.trans hack') Bool.false_ne_true⟩
  · obtain ⟨hreq, he⟩ | ⟨r, e, hreq, hre, he⟩ := hf.completesItsCall
    · exact ⟨fun _ => he, fun r hr => nomatch hreq.symm.trans hr⟩
    · refine ⟨fun hnone => (nomatch hnone.symm.trans hreq), fun r' hr' _ => ?_⟩
      obtain rfl : r = r' := Option.some.inj (hreq.symm.trans hr')
      exact ⟨e, hre, he⟩

/-! ### Speed, select and frame -/

/-- A check changes neither the speed, nor the select record, nor the frame, nor the response or the phase. -/
theorem Judged.kept {s u : State} {f : State → State} (h : Judged s f) : (f u).busSpeed = u.busSpeed ∧
    (f u).sel = u.sel ∧ (f u).frame = u.frame ∧ (f u).resp = u.resp ∧ (f u).tph = u.tph := by
  cases h <;> exact ⟨rfl, rfl, rfl, rfl, rfl⟩

/-- Settles O44: of the moves only the two speed calls write the speed. -/
theorem speedChangesOnlyAtItsTwoPoints : Obligations.SpeedChangesOnlyAtItsTwoPoints := by
  unfold Obligations.SpeedChangesOnlyAtItsTwoPoints
  intro s t hs hr hstep hne
  obtain ⟨rfl, -⟩ | ⟨f, hf, rfl⟩ := step_sequencer_cases hs hr hstep
  · exact absurd rfl hne
  · cases hf
    case speedInit hp => exact .inl ⟨hp, rfl⟩
    case speedOper hp => exact .inr ⟨hp, rfl⟩
    case release hf =>
      obtain ⟨hspeed, -⟩ := hf.kept (u := s.release)
      exact absurd hspeed hne
    all_goals exact absurd rfl hne

/-- Settles O45: of the moves only the select call, the deselect call and the last call of a run write the select record,
each with its event. -/
theorem selectChangesOnlyByItsCalls : Obligations.SelectChangesOnlyByItsCalls := by
  unfold Obligations.SelectChangesOnlyByItsCalls
  intro s t hs hr hstep hne
  obtain ⟨rfl, -⟩ | ⟨f, hf, rfl⟩ := step_sequencer_cases hs hr hstep
  · exact absurd rfl hne
  · cases hf
    case select => exact .inl ⟨rfl, rfl⟩
    case deselect | finish => exact .inr ⟨rfl, rfl⟩
    case release hf =>
      obtain ⟨-, hsel, -⟩ := hf.kept (u := s.release)
      exact absurd hsel hne
    all_goals exact absurd rfl hne

/-- As a transaction starts its frame is built, in an internal step. -/
theorem step_build {s : State} {c : Command} (hs : s.slot = none) (hr : s.rst = false) (htph : s.tph = .none)
    (hc : pointCommand s.params s.seq = some c) : step s = .next ((s.writeFrame c.frame).enterPhase .assert) := by
  rw [step_internal hr hs (request_none (isTransaction_iff.mpr ⟨c, hc⟩) htph), (Move.build c hc htph).advance_eq]

/-- Settles O46: the start of a transaction is `step_build`, and no other move writes the frame. -/
theorem frameIsWrittenOncePerTransaction : Obligations.FrameIsWrittenOncePerTransaction := by
  unfold Obligations.FrameIsWrittenOncePerTransaction
  intro s t hs hr hstep
  constructor
  · intro c htph hc
    obtain rfl : _ = t := Host.Outcome.next.inj ((step_build hs hr htph hc).symm.trans hstep)
    exact ⟨rfl, rfl⟩
  · intro hne
    obtain ⟨rfl, -⟩ | ⟨f, hf, rfl⟩ := step_sequencer_cases hs hr hstep
    · exact absurd rfl hne
    · cases hf
      case build c hc htph => exact ⟨htph, rfl, c, hc, rfl⟩
      case release hf =>
        obtain ⟨-, -, hframe, -⟩ := hf.kept (u := s.release)
        exact absurd hframe hne
      all_goals exact absurd rfl hne

/-! ### Exchanges and the select line -/

/-- Outside a transaction only fillers are sent. -/
theorem request_xchg_filler {s : State} {tx : Byte} (hpoint : s.seq.isTransaction = false)
    (hreq : s.request = some (.xchg tx)) : tx = 0xFF := by
  unfold State.request at hreq
  cases hp : s.seq <;> simp_all [Seq.isTransaction]

/-- Settles O47: outside a transaction the card is deselected and fillers are sent; inside, the phases that raise an exchange
are the settle byte, the frame, the poll and, deselected again, the release byte. -/
theorem selectDuringExchanges : Obligations.SelectDuringExchanges := by
  unfold Obligations.SelectDuringExchanges
  intro s tx hinv hreq
  by_cases hpoint : s.seq.isTransaction = true
  case neg =>
    rw [Bool.not_eq_true] at hpoint
    obtain ⟨htph, hsel⟩ := hinv.deselected hpoint
    exact ⟨by simp [htph, hsel], fun _ => hsel, fun hne => absurd (request_xchg_filler hpoint hreq) hne⟩
  case pos =>
    have hsel := hinv.sel_iff
    rw [request_transaction hpoint, State.phaseRequest] at hreq
    refine ⟨?_, ?_, ?_⟩
    · cases htph : s.tph <;> simp_all [Phase.selected]
    · rintro (hp | hp) <;> simp [hp, Seq.isTransaction] at hpoint
    · cases htph : s.tph <;> simp_all

end Sys2Proof.Machine
end

section
/-!
The stages of `initializeCard` (43_init_sequence.md R160): after the power-up, the run is made of transactions with their
checks, the OCR read, the classification and the last step. What each of these keeps, of one run or of two runs compared,
the whole run keeps. And what every operation keeps: the inputs and the parameters.
-/

namespace Sys2Proof.Machine

/-! ### Each stage as transaction and check -/

section Stage

variable {s : State}

theorem transact_seq (c : Command) (s : State) : (transact c s).seq = s.seq := (transact_kept c s).2.2.1

theorem transact_params (c : Command) (s : State) : (transact c s).params = s.params := (transact_kept c s).2.2.2

theorem resetAttempt_eq (hp : s.seq = .s2Reset) : resetAttempt s = check (transact cmd0Operands s) :=
  (check_s2Reset ((transact_seq ..).trans hp)).symm

theorem ifcond_eq (hp : s.seq = .s3Ifcond) : ifcond s = check (transact cmd8Operands s) :=
  (check_s3Ifcond ((transact_seq ..).trans hp)).symm

theorem ocrCommand_eq (hp : s.seq = .s5Ocrcmd) :
    ocrCommand s = check (transact (cmd58Operands s.params.crcFiller) s) :=
  (check_s5Ocrcmd ((transact_seq ..).trans hp)).symm

theorem blklen_eq (hp : s.seq = .s7Blklen) : blklen s = check (transact (cmd16Operands s.params.crcFiller) s) :=
  (check_s7Blklen ((transact_seq ..).trans hp)).symm

/-- After `CMD55` its check leads to the point of `CMD41`, with the parameters unchanged. -/
theorem app_kept (c : Command) (hp : s.seq = .s4App) :
    (check (transact c s)).seq = .s4Opcond ∧ (check (transact c s)).params = s.params := by
  rw [check_s4App ((transact_seq ..).trans hp)]
  exact ⟨rfl, transact_params c s⟩

theorem opcondIteration_eq (hp : s.seq = .s4App) :
    opcondIteration s = check (transact (cmd41Operands s.params.crcFiller)
      (check (transact (cmd55Operands s.params.crcFiller) s))) := by
  obtain ⟨hpoint, hparams⟩ := app_kept (cmd55Operands s.params.crcFiller) hp
  have happ : checkApp (transact (cmd55Operands s.params.crcFiller) s) =
      check (transact (cmd55Operands s.params.crcFiller) s) := (check_s4App ((transact_seq ..).trans hp)).symm
  rw [opcondIteration, happ, hparams, check_s4Opcond ((transact_seq ..).trans hpoint)]

end Stage

/-- The state in which the power-up clocks begin. -/
def State.atClocks (s : State) : State :=
  (((s.speedInit.goto .s1Delay).delay Config.powerupDelayMs).setBidx 0).goto .s1Clocks

theorem powerUp_clocks (s : State) : powerUp s =
    ((sendBytes (List.replicate 10 Config.filler) s.atClocks).setAttempt 0).goto .s2Reset := rfl

/-- Everything the power-up does. -/
theorem powerUp_eq (s : State) : powerUp s =
    { s with
      busSpeed := .init, bidx := 10, attempt := 0, seq := .s2Reset, rx := s.rx.drop 10, rxCount := s.rxCount + 10,
      events := (pollEvents s 0 10).reverse ++ .delay 100 :: .speedInit :: s.events } := by
  rw [powerUp_clocks, sendBytes_eq, sendEvents_replicate_filler, pollEvents_shift (s := s) (k := 0) rfl rfl,
    List.length_replicate]
  simp only [State.atClocks, State.goto, State.setAttempt, State.setBidx, State.delay, State.emit, State.speedInit]
  congr 1

/-! ### What the stages keep, the run keeps -/

theorem atPoint_of_eq {p : Seq} {f : State → State} {s : State} (h : s.seq = p) : atPoint p f s = f s := if_pos h

theorem atPoint_of_ne {p : Seq} {f : State → State} {s : State} (h : s.seq ≠ p) : atPoint p f s = s := if_neg h

/-- A relation between the states of two runs that each stage keeps. -/
structure StageRel (R : State → State → Prop) : Prop where
  agree : ∀ {u v}, R u v → v.seq = u.seq ∧ v.params = u.params
  transaction : ∀ {u v c}, R u v → pointCommand u.params u.seq = some c → R (check (transact c u)) (check (transact c v))
  ocr : ∀ {u v}, R u v → u.seq = .s5Ocrbytes → R (readOcr u) (readOcr v)
  classify : ∀ {u v}, R u v → u.seq = .s6Classify → R (classify u) (classify v)
  finalize : ∀ {u v}, R u v → u.seq = .s8Speed → R (finalize u) (finalize v)

namespace StageRel

variable {R : State → State → Prop} (hR : StageRel R)

include hR

theorem atPoint {p : Seq} {f : State → State} (hf : ∀ {u v}, R u v → u.seq = p → R (f u) (f v)) {u v : State}
    (h : R u v) : R (atPoint p f u) (atPoint p f v) := by
  obtain ⟨hseq, -⟩ := hR.agree h
  by_cases hp : u.seq = p
  · rw [atPoint_of_eq hp, atPoint_of_eq (hseq.trans hp)]
    exact hf h hp
  · rwa [atPoint_of_ne hp, atPoint_of_ne (hseq ▸ hp)]

theorem whileAt {p : Seq} {f : State → State} (hf : ∀ {u v}, R u v → u.seq = p → R (f u) (f v)) (n : Nat)
    {u v : State} (h : R u v) : R (whileAt p f n u) (whileAt p f n v) := by
  induction n generalizing u v with
  | zero => exact h
  | succ n ih =>
    obtain ⟨hseq, -⟩ := hR.agree h
    by_cases hp : u.seq = p
    · rw [Machine.whileAt, Machine.whileAt, if_pos hp, if_pos (hseq.trans hp)]
      exact ih (hf h hp)
    · rwa [whileAt_of_ne hp, whileAt_of_ne (hseq ▸ hp)]

theorem resetAttempt {u v : State} (h : R u v) (hp : u.seq = .s2Reset) : R (resetAttempt u) (resetAttempt v) := by
  obtain ⟨hseq, -⟩ := hR.agree h
  rw [resetAttempt_eq hp, resetAttempt_eq (hseq.trans hp)]
  exact hR.transaction h (by rw [hp, pointCommand])

theorem ifcond {u v : State} (h : R u v) (hp : u.seq = .s3Ifcond) : R (ifcond u) (ifcond v) := by
  obtain ⟨hseq, -⟩ := hR.agree h
  rw [ifcond_eq hp, ifcond_eq (hseq.trans hp)]
  exact hR.transaction h (by rw [hp, pointCommand])

theorem opcondIteration {u v : State} (h : R u v) (hp : u.seq = .s4App) :
    R (opcondIteration u) (opcondIteration v) := by
  obtain ⟨hseq, hparams⟩ := hR.agree h
  rw [opcondIteration_eq hp, opcondIteration_eq (hseq.trans hp), hparams]
  obtain ⟨hpoint, hkept⟩ := app_kept (cmd55Operands u.params.crcFiller) hp
  exact hR.transaction (hR.transaction h (by rw [hp, pointCommand])) (by rw [hpoint, hkept, pointCommand])

theorem ocrCommand {u v : State} (h : R u v) (hp : u.seq = .s5Ocrcmd) : R (ocrCommand u) (ocrCommand v) := by
  obtain ⟨hseq, hparams⟩ := hR.agree h
  rw [ocrCommand_eq hp, ocrCommand_eq (hseq.trans hp), hparams]
  exact hR.transaction h (by rw [hp, pointCommand])

theorem blklen {u v : State} (h : R u v) (hp : u.seq = .s7Blklen) : R (blklen u) (blklen v) := by
  obtain ⟨hseq, hparams⟩ := hR.agree h
  rw [blklen_eq hp, blklen_eq (hseq.trans hp), hparams]
  exact hR.transaction h (by rw [hp, pointCommand])

/-- Two runs whose power-ups are related end related. -/
theorem initSequence {s t : State} (h : R (powerUp s.acceptStart) (powerUp t.acceptStart)) :
    R (initSequence s) (initSequence t) := by
  have h := hR.whileAt hR.resetAttempt Config.resetAttemptMax h
  have h := hR.atPoint hR.ifcond h
  have h := hR.whileAt hR.opcondIteration Config.opcondIterMax h
  have h := hR.atPoint hR.ocrCommand h
  have h := hR.atPoint hR.ocr h
  have h := hR.atPoint hR.classify h
  have h := hR.atPoint hR.blklen h
  exact hR.atPoint hR.finalize h

end StageRel

/-- A property of one run that each stage keeps. -/
structure StageProp (P : State → Prop) : Prop where
  transaction : ∀ {u c}, P u → pointCommand u.params u.seq = some c → P (check (transact c u))
  ocr : ∀ {u}, P u → u.seq = .s5Ocrbytes → P (readOcr u)
  classify : ∀ {u}, P u → u.seq = .s6Classify → P (classify u)
  finalize : ∀ {u}, P u → u.seq = .s8Speed → P (finalize u)

/-- It is a relation of the run with itself. -/
theorem StageProp.stageRel {P : State → Prop} (hP : StageProp P) : StageRel fun u v => v = u ∧ P u where
  agree h := by rw [h.1]; exact ⟨rfl, rfl⟩
  transaction h hc := ⟨by rw [h.1], hP.transaction h.2 hc⟩
  ocr h hp := ⟨by rw [h.1], hP.ocr h.2 hp⟩
  classify h hp := ⟨by rw [h.1], hP.classify h.2 hp⟩
  finalize h hp := ⟨by rw [h.1], hP.finalize h.2 hp⟩

theorem StageProp.initSequence {P : State → Prop} (hP : StageProp P) {s : State} (h : P (powerUp s.acceptStart)) :
    P (initSequence s) :=
  (hP.stageRel.initSequence ⟨rfl, h⟩).2

/-! ### Inputs and parameters -/

/-- What no operation writes: the parameters, the input levels and, once taken, the slot. -/
structure SameInputs (s t : State) : Prop where
  params : t.params = s.params
  start : t.start = s.start
  rst : t.rst = s.rst
  ack : t.ack = s.ack
  slot : t.slot = s.slot

theorem SameInputs.refl (s : State) : SameInputs s s := ⟨rfl, rfl, rfl, rfl, rfl⟩

theorem SameInputs.trans {s t u : State} (h : SameInputs s t) (h' : SameInputs t u) : SameInputs s u :=
  ⟨h'.params.trans h.params, h'.start.trans h.start, h'.rst.trans h.rst, h'.ack.trans h.ack, h'.slot.trans h.slot⟩

theorem SameInputs.live {s t : State} (h : SameInputs s t) (hlive : s.Live) : t.Live := by
  obtain ⟨hr, hs, hack⟩ := hlive
  exact ⟨h.rst.trans hr, h.slot.trans hs, h.ack.trans hack⟩

theorem Judged.sameInputs {s u : State} {f : State → State} (h : Judged s f) : SameInputs u (f u) := by
  cases h <;> exact ⟨rfl, rfl, rfl, rfl, rfl⟩

theorem check_sameInputs (s : State) : SameInputs s (check s) := by
  obtain ⟨f, hf⟩ := exists_judged s
  rw [hf.check_eq]
  exact hf.sameInputs

theorem Move.sameInputs {s : State} {f : State → State} (h : Move s f) : SameInputs s (f s) := by
  cases h
  case release hf => exact SameInputs.trans (t := s.release) ⟨rfl, rfl, rfl, rfl, rfl⟩ hf.sameInputs
  all_goals exact ⟨rfl, rfl, rfl, rfl, rfl⟩

theorem advance_sameInputs (s : State) : SameInputs s (advance s) := by
  obtain ⟨f, hf⟩ := exists_move s
  rw [hf.advance_eq]
  exact hf.sameInputs

theorem transact_sameInputs (c : Command) (s : State) : SameInputs s (transact c s) := by
  obtain ⟨k, r, -, h⟩ := transact_spec c s
  rw [h]
  exact ⟨rfl, rfl, rfl, rfl, rfl⟩

theorem poll_sameInputs (n : Nat) (s : State) : SameInputs s (poll n s) := by
  obtain ⟨k, r, -, h⟩ := poll_spec n s
  rw [h]
  exact ⟨rfl, rfl, rfl, rfl, rfl⟩

theorem receive_sameInputs (b : Byte) (s : State) : SameInputs s (receive b s) := by
  unfold receive
  split
  case h_1 => exact SameInputs.trans (t := s.offer [b]) ⟨rfl, rfl, rfl, rfl, rfl⟩ (advance_sameInputs _)
  all_goals exact .refl s

theorem powerUp_sameInputs (s : State) : SameInputs s (powerUp s) := by
  rw [powerUp_eq]
  exact ⟨rfl, rfl, rfl, rfl, rfl⟩

theorem readOcr_sameInputs (s : State) : SameInputs s (readOcr s) := by
  rw [readOcr, ocrExchanges_eq]
  exact ⟨rfl, rfl, rfl, rfl, rfl⟩

theorem classify_sameInputs (s : State) : SameInputs s (classify s) := ⟨rfl, rfl, rfl, rfl, rfl⟩

theorem finalize_sameInputs (s : State) : SameInputs s (finalize s) := ⟨rfl, rfl, rfl, rfl, rfl⟩

theorem sameInputs_stageProp (s : State) : StageProp (SameInputs s) where
  transaction h _ := h.trans ((transact_sameInputs ..).trans (check_sameInputs _))
  ocr h _ := h.trans (readOcr_sameInputs _)
  classify h _ := h.trans (classify_sameInputs _)
  finalize h _ := h.trans (finalize_sameInputs _)

theorem initSequence_sameInputs (s : State) : SameInputs s (initSequence s) := by
  have haccept : SameInputs s s.acceptStart := ⟨rfl, rfl, rfl, rfl, rfl⟩
  exact (sameInputs_stageProp s).initSequence (haccept.trans (powerUp_sameInputs _))

/-- A transaction is carried out or refused. -/
theorem eq_transact_of_runTransaction {s t : State} {c : Command} (h : runTransaction c s = .next t) :
    s.tph = .none ∧ t = transact c s := by
  by_cases htph : s.tph = .none
  · rw [runTransaction_of_none htph] at h
    injection h with h
    exact ⟨htph, h.symm⟩
  · rw [runTransaction_of_ne htph] at h
    exact nomatch h

theorem runTransaction_sameInputs {s t : State} {c : Command} (h : runTransaction c s = .next t) : SameInputs s t := by
  obtain ⟨-, rfl⟩ := eq_transact_of_runTransaction h
  exact transact_sameInputs c s

theorem eq_transact_of_execAcmd41 {s t : State} {c : Byte} (h : execAcmd41 c s = .next t) :
    s.tph = .none ∧ t = transact (cmd41Operands c) (transact (cmd55Operands c) s) := by
  by_cases htph : s.tph = .none
  · rw [execAcmd41_of_none htph] at h
    injection h with h
    exact ⟨htph, h.symm⟩
  · rw [execAcmd41_of_ne htph] at h
    exact nomatch h

/-- Every operation that completes leaves the inputs, the parameters and the slot. -/
theorem exec_sameInputs {i : Instr} {s t : State} (h : exec i s = .next t) : SameInputs s t := by
  cases i with
  | cmd0 | cmd8 => exact runTransaction_sameInputs h
  | cmd55 crc | cmd41 crc | cmd58 crc | cmd16 crc => exact runTransaction_sameInputs h
  | sendCommand index argument checksum => exact runTransaction_sameInputs h
  | acmd41 crc =>
    obtain ⟨-, rfl⟩ := eq_transact_of_execAcmd41 h
    exact (transact_sameInputs ..).trans (transact_sameInputs ..)
  | buildFrame index argument checksum =>
    obtain rfl := Host.Outcome.next.inj h
    exact ⟨rfl, rfl, rfl, rfl, rfl⟩
  | pollResponse n =>
    obtain rfl := Host.Outcome.next.inj h
    exact poll_sameInputs n s
  | initializeCard =>
    obtain rfl := Host.Outcome.next.inj h
    split
    · exact initSequence_sameInputs s
    · exact .refl s
  | respFiller | respReady | respIdle | respOther b =>
    obtain rfl := Host.Outcome.next.inj h
    exact receive_sameInputs _ s
  | ocr word =>
    obtain rfl := Host.Outcome.next.inj h
    split
    · exact SameInputs.trans (t := s.offer (ocrBytes word)) ⟨rfl, rfl, rfl, rfl, rfl⟩
        ((readOcr_sameInputs _).trans (classify_sameInputs _))
    · exact .refl s

/-- Settles O42: a reset keeps them, a placed operation by `exec_sameInputs`, the sequencer by `Move.sameInputs`. -/
theorem parametersAndInputsAreNotWritten : Obligations.ParametersAndInputsAreNotWritten := by
  unfold Obligations.ParametersAndInputsAreNotWritten
  intro s t hstep
  obtain ⟨-, rfl⟩ | ⟨-, p, i, -, -, hexec⟩ | ⟨-, -, rfl⟩ := step_cases hstep
  · exact ⟨rfl, rfl, rfl, rfl⟩
  · obtain ⟨hparams, hstart, hrst, hack, -⟩ := exec_sameInputs hexec
    exact ⟨hparams, hstart, hrst, hack⟩
  · obtain ⟨hwait, -⟩ | ⟨hadvance, -⟩ := tick_cases s
    · rw [hwait]
      exact ⟨rfl, rfl, rfl, rfl⟩
    · obtain ⟨hparams, hstart, hrst, hack, -⟩ := advance_sameInputs s
      rw [hadvance]
      exact ⟨hparams, hstart, hrst, hack⟩

end Sys2Proof.Machine
end

section
/-!
The invariant of the block (10_state.md R45): every check and every move of the sequencer keeps it. Within a run,
outside a phase, what it says splits into what no point changes (`State.Running`) and what the point says.
-/

namespace Sys2Proof.Machine

/-! ### Consequences -/

namespace State.Inv

variable {s : State} (h : s.Inv)

include h

/-- Within a run the Card State is neither of the two final ones. -/
theorem not_final (hp : s.seq ≠ .idle) : s.cardState ≠ .ready ∧ s.cardState ≠ .failed := by
  have hpoint := h.point_state
  constructor
  all_goals
    intro hc
    rw [hc] at hpoint
    revert hp hpoint
    cases s.seq <;> simp [Seq.admits]

theorem not_done (hp : s.seq ≠ .idle) : s.done = false := by
  obtain ⟨hready, hfailed⟩ := h.not_final hp
  rw [← Bool.not_eq_true, h.done_iff]
  tauto

theorem no_error (hp : s.seq ≠ .idle) : s.errKind = .none := by
  by_contra hne
  exact (h.not_final hp).2 (h.failed_iff.mpr hne)

/-- The speed is `Init` from the speed call of step 1 to that of step 8. -/
theorem speed_init (hp : s.seq ≠ .idle ∧ s.seq ≠ .s1Speed ∧ s.seq ≠ .s8Desel) : s.busSpeed = .init := by
  obtain ⟨hidle, hspeed, hdesel⟩ := hp
  cases hb : s.busSpeed with
  | init => rfl
  | operational => obtain h' | ⟨h', -⟩ | h' := h.operational_points hb <;> contradiction

/-- What the program point says of the Card State. -/
theorem admits {p : Seq} (hp : s.seq = p) : p.admits s.cardState = true := hp ▸ h.point_state

end State.Inv

theorem Seq.ne_idle_of_isTransaction {p : Seq} (h : p.isTransaction = true) :
    p ≠ .idle ∧ p ≠ .s1Speed ∧ p ≠ .s8Desel := by
  revert h
  cases p <;> decide

/-! ### Running, outside a phase -/

/-- What the invariant says within a run, outside a phase, whatever the program point. -/
structure State.Running (s : State) : Prop where
  busy : s.busy = true
  phase : s.tph = .none
  deselected : s.sel = false
  not_done : s.done = false
  no_error : s.errKind = .none
  attempt_le : s.attempt.toNat ≤ 200
  polls_le : s.polls ≤ s.bound
  bidx_le : s.bidx.toNat ≤ 10
  resp_form : s.resp.isNone = true ↔ s.resp.byte = 0xFF

theorem State.Inv.running {s : State} (h : s.Inv) (hp : s.seq ≠ .idle) (htph : s.tph = .none) : s.Running :=
  { h with
    busy := h.busy_iff.mpr hp, phase := htph, deselected := by rw [h.sel_iff, htph, Phase.selected]
    not_done := h.not_done hp, no_error := h.no_error hp }

theorem Seq.admits_not_final {p : Seq} {c : CardState} (hp : p ≠ .idle) (h : p.admits c = true) :
    c ≠ .ready ∧ c ≠ .failed := by
  revert hp h
  cases p <;> cases c <;> decide

/-- What the invariant adds to `State.Running` is what the program point says. -/
theorem State.Running.inv {s : State} (h : s.Running) (hp : s.seq ≠ .idle)
    (hspeed : s.busSpeed = .operational ↔ s.seq = .s8Desel) (hpoint : s.seq.admits s.cardState = true)
    (hvalid : s.seq.classified = true → s.cardTypeValid = true)
    (hattempt : s.seq = .s2Reset → s.attempt.toNat < 200)
    (hiter : s.seq = .s4App ∨ s.seq = .s4Opcond → s.iter.toNat < 65535) : s.Inv := by
  obtain ⟨hready, hfailed⟩ := Seq.admits_not_final hp hpoint
  exact { h with
    busy_iff := ⟨fun _ => hp, fun _ => h.busy⟩
    phase_point := fun hne => absurd h.phase hne
    sel_iff := by rw [h.deselected, h.phase, Phase.selected]
    done_iff := by simp [h.not_done, hready, hfailed]
    ok_iff := by simp [h.not_done, hready]
    failed_iff := by simp [h.no_error, hfailed]
    ready_final := fun hc => absurd hc hready
    failed_final := fun hc => absurd hc hfailed
    operational_points := fun hb => .inl (hspeed.mp hb)
    desel_speed := hspeed.mpr
    classified_valid := hvalid
    point_state := hpoint
    attempt_lt := hattempt
    iter_lt := hiter }

/-- The same at the points with the `Init` speed. -/
theorem State.Running.inv_of_init {s : State} (h : s.Running) (hp : s.seq ≠ .idle ∧ s.seq ≠ .s8Desel)
    (hspeed : s.busSpeed = .init) (hpoint : s.seq.admits s.cardState = true)
    (hvalid : s.seq.classified = true → s.cardTypeValid = true)
    (hattempt : s.seq = .s2Reset → s.attempt.toNat < 200)
    (hiter : s.seq = .s4App ∨ s.seq = .s4Opcond → s.iter.toNat < 65535) : s.Inv :=
  h.inv hp.1 (by simp [hspeed, hp.2]) hpoint hvalid hattempt hiter

/-- Failing, from a running point with the `Init` speed (60_exceptions.md R210, R211). -/
theorem State.Running.inv_raise {s : State} (h : s.Running) (hspeed : s.busSpeed = .init) {k : ErrKind}
    (hk : k ≠ .none) : (s.raiseInitError k).Inv :=
  { h with
    busy_iff := by simp
    phase_point := fun hne => absurd h.phase hne
    sel_iff := by simp [h.deselected, h.phase, Phase.selected]
    done_iff := by simp
    ok_iff := by simp
    failed_iff := by simp [hk]
    ready_final := nofun
    failed_final := fun _ => ⟨hspeed, h.deselected⟩
    operational_points := by simp [hspeed]
    desel_speed := nofun
    classified_valid := nofun
    point_state := rfl
    attempt_lt := nofun
    iter_lt := by simp }

/-! ### The checks -/

theorem toNat_succ_le {w : Nat} {b : BitVec w} {n : Nat} (h : b.toNat < n) : (b + 1).toNat ≤ n := by
  calc (b + 1).toNat = (b.toNat + 1 % 2 ^ w) % 2 ^ w := BitVec.toNat_add b 1
    _ ≤ b.toNat + 1 := (Nat.mod_le ..).trans (Nat.add_le_add_left (Nat.mod_le ..) _)
    _ ≤ n := h

/-- A counter below its bound that does not step to the bound stays below it. -/
theorem toNat_succ_lt {w : Nat} {b : BitVec w} {n : Nat} (h : b.toNat < n) (hne : b + 1 ≠ BitVec.ofNat w n) :
    (b + 1).toNat < n :=
  lt_of_le_of_ne (toNat_succ_le h) fun he => hne (by rw [← he, BitVec.ofNat_toNat, BitVec.setWidth_eq])

/-- Every check keeps the invariant. -/
theorem Judged.inv {s : State} {f : State → State} (hf : Judged s f) (h : s.Inv) (htph : s.tph = .none) :
    (f s).Inv := by
  by_cases hpoint : s.seq.isTransaction = true
  case neg =>
    cases hf
    case none => exact h
    all_goals exact absurd (by simp [*, Seq.isTransaction]) hpoint
  have hne := Seq.ne_idle_of_isTransaction hpoint
  have hrun := h.running hne.1 htph
  have hspeed := h.speed_init hne
  cases hf with
  | resetPassed hp hr =>
    exact State.Running.inv_of_init { hrun with attempt_le := toNat_succ_le (h.attempt_lt hp) } (by simp) hspeed rfl
      nofun nofun (by simp)
  | resetFailed hp hr ha =>
    exact State.Running.inv_raise (s := s.setAttempt (s.attempt + 1))
      { hrun with attempt_le := toNat_succ_le (h.attempt_lt hp) } hspeed (by decide)
  | resetAgain hp hr ha =>
    have hlt := toNat_succ_lt (h.attempt_lt hp) ha
    exact { h with attempt_le := Nat.le_of_lt hlt, attempt_lt := fun _ => hlt }
  | ifcondPassed hp hr => exact State.Running.inv_of_init { hrun with } (by simp) hspeed rfl nofun nofun (by simp)
  | ifcondFailed hp hr => exact hrun.inv_raise hspeed (by decide)
  | app hp =>
    exact State.Running.inv_of_init { hrun with } (by simp) hspeed (h.admits (p := .s4App) hp) nofun nofun
      fun _ => h.iter_lt (.inl hp)
  | opcondPassed hp hr => exact State.Running.inv_of_init { hrun with } (by simp) hspeed rfl nofun nofun (by simp)
  | opcondFailed hp hr hi =>
    exact State.Running.inv_raise (s := s.setIter (s.iter + 1)) { hrun with } hspeed (by decide)
  | opcondAgain hp hr hi =>
    exact State.Running.inv_of_init { hrun with } (by simp) hspeed (h.admits (p := .s4Opcond) hp) nofun nofun
      fun _ => toNat_succ_lt (h.iter_lt (.inr hp)) hi
  | ocrcmdPassed hp hr =>
    exact State.Running.inv_of_init { hrun with bidx_le := by simp } (by simp) hspeed (h.admits (p := .s5Ocrcmd) hp)
      nofun nofun (by simp)
  | ocrcmdFailed hp hr => exact hrun.inv_raise hspeed (by decide)
  | blklenPassed hp hr | blklenReported hp hr | blklenWarned hp hr =>
    exact State.Running.inv_of_init { hrun with } (by simp) hspeed rfl
      (fun _ => h.classified_valid (by rw [hp, Seq.classified])) nofun (by simp)
  | none hpoint' => exact h

/-! ### The moves -/

section Moves

variable {s : State}

/-- A new phase at a transaction point keeps the invariant, with the select record the phase asks for. -/
theorem State.Inv.inPhase (h : s.Inv) (hpoint : s.seq.isTransaction = true) {p : Phase} {b : Bool}
    (hb : b = p.selected) : ({ s with tph := p, sel := b } : State).Inv := by
  obtain ⟨hready, hfailed⟩ := h.not_final (Seq.ne_idle_of_isTransaction hpoint).1
  exact { h with
    phase_point := fun _ => hpoint
    sel_iff := hb
    ready_final := fun hc => absurd hc hready
    failed_final := fun hc => absurd hc hfailed }

/-- A new phase with the select record of the old one. -/
theorem State.Inv.enterPhase (h : s.Inv) (hpoint : s.seq.isTransaction = true) {p q : Phase} (htph : s.tph = q)
    (hq : q.selected = p.selected) : (s.enterPhase p).Inv :=
  h.inPhase hpoint (by rw [h.sel_iff, htph, hq])

/-- A poll begins within its bound. -/
theorem State.Inv.enterPoll (h : s.Inv) (hpoint : s.seq.isTransaction = true) (htph : s.tph = .frame) (c : Command) :
    (enterPoll c s).Inv :=
  { h.enterPhase hpoint (p := .poll) htph rfl with polls_le := Nat.zero_le _ }

/-- A byte loop within the longest one keeps the invariant. -/
theorem State.Inv.sendXchg (h : s.Inv) (b : Byte) (hb : s.bidx.toNat < 10) : (s.sendXchg b).Inv :=
  { h with bidx_le := toNat_succ_le hb }

theorem State.Inv.running_at (h : s.Inv) {p : Seq} (hp : s.seq = p) (hidle : p ≠ .idle)
    (hpoint : p.isTransaction = false) : s.Running :=
  h.running (hp ▸ hidle) (h.deselected (hp ▸ hpoint)).1

theorem State.Inv.acceptStart (h : s.Inv) (hp : s.seq = .idle) : s.acceptStart.Inv := by
  have hsel : s.sel = false := (h.deselected (by rw [hp, Seq.isTransaction])).2
  exact { h with
    busy_iff := by simp
    phase_point := by simp
    sel_iff := hsel
    done_iff := by simp
    ok_iff := by simp
    failed_iff := by simp
    ready_final := nofun
    failed_final := nofun
    operational_points := fun _ => .inr (.inr rfl)
    desel_speed := nofun
    classified_valid := nofun
    point_state := rfl
    attempt_lt := nofun
    iter_lt := by simp }

/-- The end of a successful run. -/
theorem State.Inv.finalizeDesel (h : s.Inv) (hp : s.seq = .s8Desel) : (finalizeDesel s).Inv := by
  obtain ⟨htph, -⟩ := h.deselected (by rw [hp, Seq.isTransaction])
  exact { h with
    busy_iff := by simp [Machine.finalizeDesel]
    phase_point := fun hne => absurd htph hne
    sel_iff := (congrArg Phase.selected htph).symm
    done_iff := by simp [Machine.finalizeDesel]
    ok_iff := by simp [Machine.finalizeDesel]
    failed_iff := by simp [Machine.finalizeDesel, h.no_error (by rw [hp]; decide)]
    ready_final := fun _ => ⟨h.desel_speed hp, rfl, h.classified_valid (by rw [hp, Seq.classified])⟩
    failed_final := nofun
    operational_points := fun _ => .inr (.inl ⟨rfl, rfl⟩)
    desel_speed := nofun
    classified_valid := nofun
    point_state := rfl
    attempt_lt := nofun
    iter_lt := by simp [Machine.finalizeDesel] }

/-- A frame byte is selected by a counter below six. -/
theorem bidx_lt_of_frameByte {b : Byte} (hb : s.frameByte = some b) : s.bidx.toNat < 6 := by
  obtain ⟨hlt, -⟩ := List.getElem?_eq_some_iff.mp hb
  simpa using hlt

/-- A reply has the form of R22. -/
theorem Resp.reply_form {b : Byte} (hb : b ≠ 0xFF) :
    (Resp.reply b).isNone = true ↔ (Resp.reply b).byte = 0xFF :=
  ⟨nofun, fun he => absurd he hb⟩

theorem Resp.noResponse_form : Resp.noResponse.isNone = true ↔ Resp.noResponse.byte = 0xFF := by decide

/-- Step 2 begins with no attempt made. -/
theorem State.Running.inv_firstAttempt (h : s.Running) (hspeed : s.busSpeed = .init)
    (hc : s.cardState = .uninitialized) : ((s.setAttempt 0).goto .s2Reset).Inv :=
  State.Running.inv_of_init { h with attempt_le := by simp } (by simp) hspeed (by simp [hc, Seq.admits]) nofun (by simp)
    (by simp)

/-- Every move of the sequencer keeps the invariant. -/
theorem Move.inv {f : State → State} (hf : Move s f) (h : s.Inv) : (f s).Inv := by
  cases hf with
  | rest => exact h
  | start hp => exact h.acceptStart hp
  | speedInit hp =>
    have hrun := h.running_at hp (by decide) rfl
    exact State.Running.inv_of_init { hrun with } (by simp) rfl (h.admits (p := .s1Speed) hp) nofun nofun (by simp)
  | delay hp =>
    have hrun := h.running_at hp (by decide) rfl
    have hspeed := h.speed_init (by rw [hp]; decide)
    exact State.Running.inv_of_init { hrun with bidx_le := by simp } (by simp) hspeed (h.admits (p := .s1Delay) hp)
      nofun nofun (by simp)
  | clock hp hb => exact h.sendXchg _ (by omega)
  | lastClock hp hb =>
    have hrun := (h.sendXchg Config.filler (by omega)).running_at hp (by decide) rfl
    exact hrun.inv_firstAttempt (h.speed_init (by rw [hp]; decide)) (by simpa [Seq.admits] using h.admits hp)
  | clocksOver hp hb =>
    have hrun := h.running_at hp (by decide) rfl
    exact hrun.inv_firstAttempt (h.speed_init (by rw [hp]; decide)) (by simpa [Seq.admits] using h.admits hp)
  | build c hc htph =>
    exact { h.enterPhase (isTransaction_iff.mpr ⟨c, hc⟩) (p := .assert) htph rfl with }
  | select hpoint htph => exact { h.inPhase hpoint (p := .settle) (b := true) rfl with }
  | settle hpoint htph =>
    exact { h.enterPhase hpoint (p := .frame) htph rfl with bidx_le := by simp }
  | send b hpoint htph hb hlt => exact h.sendXchg b (by omega)
  | sendLast c b hc htph hb =>
    have hlt := bidx_lt_of_frameByte hb
    exact (h.sendXchg b (by omega)).enterPoll (isTransaction_iff.mpr ⟨c, hc⟩) htph c
  | frameOver c hc htph hb => exact h.enterPoll (isTransaction_iff.mpr ⟨c, hc⟩) htph c
  | pollFiller hpoint htph hlt => exact { h with polls_le := hlt }
  | pollReply hpoint htph hlt hb =>
    exact { h.enterPhase hpoint (p := .deassert) htph rfl with polls_le := hlt, resp_form := Resp.reply_form hb }
  | pollBound hpoint htph =>
    exact { h.enterPhase hpoint (p := .deassert) htph rfl with resp_form := Resp.noResponse_form }
  | deselect hpoint htph => exact { h.inPhase hpoint (p := .trail) (b := false) rfl with }
  | release f hpoint htph hf =>
    have hrelease : s.release.Inv := { h.enterPhase hpoint (p := .none) htph rfl with }
    have hf : Judged s.release f := hf.congr rfl rfl rfl rfl fun _ => rfl
    exact hf.inv hrelease rfl
  | ocr hp hb => exact { h with bidx_le := toNat_succ_le (by omega) }
  | lastOcr hp hb =>
    have hrun := h.running_at hp (by decide) rfl
    exact State.Running.inv_of_init { hrun with bidx_le := toNat_succ_le (by omega) } (by simp)
      (h.speed_init (by rw [hp]; decide)) (h.admits (p := .s5Ocrbytes) hp) nofun nofun (by simp)
  | ocrOver hp hb =>
    have hrun := h.running_at hp (by decide) rfl
    exact State.Running.inv_of_init { hrun with } (by simp) (h.speed_init (by rw [hp]; decide))
      (h.admits (p := .s5Ocrbytes) hp) nofun nofun (by simp)
  | classify hp =>
    have hrun := h.running_at hp (by decide) rfl
    exact State.Running.inv_of_init { hrun with } (by simp [Machine.classify]) (h.speed_init (by rw [hp]; decide)) rfl
      (fun _ => rfl) nofun (by simp [Machine.classify])
  | speedOper hp =>
    have hrun := h.running_at hp (by decide) rfl
    exact State.Running.inv { hrun with } (by simp [finalizeSpeed]) (by simp [finalizeSpeed])
      (h.admits (p := .s8Speed) hp) (fun _ => h.classified_valid (by rw [hp, Seq.classified])) nofun
      (by simp [finalizeSpeed])
  | finish hp => exact h.finalizeDesel hp

end Moves

end Sys2Proof.Machine
end

section
/-!
Between two stages of `initializeCard` (43_init_sequence.md R160): the invariant, and what the run has established of the
card type and the warning. Every stage keeps it, whatever registers an idle block started with, and the loops leave their
points within their bounds, so that the run ends at `IDLE`.
-/

namespace Sys2Proof.Machine

/-! ### A transaction -/

theorem PollOutcome.resp_form {s : State} {first bound k : Nat} {r : Resp} (h : PollOutcome s first bound k r) :
    r.isNone = true ↔ r.byte = 0xFF := by
  obtain ⟨-, rfl, -⟩ | ⟨j, -, -, hb, rfl, -⟩ := h
  · exact Resp.noResponse_form
  · exact Resp.reply_form hb

/-- A whole transaction keeps the invariant. -/
theorem State.Inv.transact {s : State} (h : s.Inv) (c : Command) : (transact c s).Inv := by
  obtain ⟨k, r, ho, ht⟩ := transact_spec c s
  rw [ht]
  exact { h with
    phase_point := fun hne => absurd rfl hne
    sel_iff := rfl
    ready_final := fun hc => ⟨(h.ready_final hc).1, rfl, (h.ready_final hc).2.2⟩
    failed_final := fun hc => ⟨(h.failed_final hc).1, rfl⟩
    polls_le := ho.le
    bidx_le := (by decide : (6 : BitVec 4).toNat ≤ 10)
    resp_form := ho.resp_form }

/-- A transaction overwrites what an earlier one left. -/
theorem transact_overwrites (c : Command) (s : State) (resp : Resp) (polls bound : Nat) (bidx : BitVec 4) (sel : Bool) :
    transact c { s with resp := resp, polls := polls, bound := bound, bidx := bidx, sel := sel } = transact c s := by
  obtain ⟨k, r, ho, hs⟩ := transact_spec c s
  obtain ⟨k', r', ho', ht⟩ :=
    transact_spec c { s with resp := resp, polls := polls, bound := bound, bidx := bidx, sel := sel }
  have ho' : PollOutcome s 7 (s.pollBoundOf c.index) k' r' := ho'
  obtain ⟨rfl, rfl⟩ := ho.unique ho'
  rw [hs, ht]
  rfl

/-! ### Between the stages -/

/-- What holds between two stages of a run, and at its end. -/
structure State.BetweenStages (s : State) : Prop extends s.Inv where
  phase : s.tph = .none
  ended : s.seq = .idle → s.done = true
  ocr_start : s.seq = .s5Ocrbytes → s.bidx = 0
  valid_points : s.cardTypeValid = true → s.seq.classified = true ∨ s.cardState = .ready
  type_eq : s.cardTypeValid = true → s.cardType = cardTypeOf s.ocr
  warn_points : s.warnBlklen = true → s.seq = .s8Speed ∨ s.cardState = .ready

namespace State.BetweenStages

variable {s : State}

/-- Before the classification there is neither a card type nor a warning. -/
theorem unclassified (h : s.BetweenStages) (hp : s.seq ≠ .idle) (hc : s.seq.classified = false) :
    s.cardTypeValid = false ∧ s.warnBlklen = false := by
  obtain ⟨hready, -⟩ := h.not_final hp
  constructor
  · rw [← Bool.not_eq_true]
    intro hv
    obtain hc' | hr := h.valid_points hv
    · exact absurd (hc.symm.trans hc') Bool.false_ne_true
    · exact hready hr
  · rw [← Bool.not_eq_true]
    intro hw
    obtain hp' | hr := h.warn_points hw
    · rw [hp'] at hc
      exact absurd hc (by decide)
    · exact hready hr

theorem of_unclassified (hinv : s.Inv) (hphase : s.tph = .none)
    (hs : s.cardTypeValid = false ∧ s.warnBlklen = false) (hended : s.seq = .idle → s.done = true)
    (hocr : s.seq = .s5Ocrbytes → s.bidx = 0) : s.BetweenStages :=
  { hinv with
    phase := hphase, ended := hended, ocr_start := hocr
    valid_points := fun hv => absurd (hs.1.symm.trans hv) Bool.false_ne_true
    type_eq := fun hv => absurd (hs.1.symm.trans hv) Bool.false_ne_true
    warn_points := fun hw => absurd (hs.2.symm.trans hw) Bool.false_ne_true }

theorem transact (h : s.BetweenStages) (hpoint : s.seq.isTransaction = true) (c : Command) :
    (transact c s).BetweenStages := by
  have hinv := h.toInv.transact c
  obtain ⟨k, r, -, ht⟩ := transact_spec c s
  rw [ht] at hinv ⊢
  exact { hinv, h with
    phase := rfl
    ocr_start := fun hp => absurd hpoint (by
      have hp : s.seq = .s5Ocrbytes := hp
      rw [hp]
      decide) }

/-- Each check leads from between two stages to between two stages. -/
theorem judged {f : State → State} (h : s.BetweenStages) (hpoint : s.seq.isTransaction = true) (hf : Judged s f) :
    (f s).BetweenStages := by
  have hinv := hf.inv h.toInv h.phase
  have hne := (Seq.ne_idle_of_isTransaction hpoint).1
  cases hf with
  | resetPassed hp | ifcondPassed hp | app hp | opcondPassed hp | opcondAgain hp =>
    exact of_unclassified hinv h.phase (h.unclassified hne (by rw [hp, Seq.classified])) nofun nofun
  | resetAgain hp => exact { hinv, h with }
  | resetFailed hp | ifcondFailed hp | opcondFailed hp | ocrcmdFailed hp =>
    exact of_unclassified hinv h.phase (h.unclassified hne (by rw [hp, Seq.classified])) (fun _ => rfl) nofun
  | ocrcmdPassed hp =>
    exact of_unclassified hinv h.phase (h.unclassified hne (by rw [hp, Seq.classified])) nofun fun _ => rfl
  | blklenPassed hp | blklenReported hp | blklenWarned hp =>
    exact { hinv, h with
      ended := nofun, ocr_start := nofun, valid_points := fun _ => .inl rfl, warn_points := fun _ => .inl rfl }
  | none hpoint' => exact h

theorem readOcr (h : s.BetweenStages) (hp : s.seq = .s5Ocrbytes) : (readOcr s).BetweenStages := by
  have hne : s.seq ≠ .idle := by rw [hp]; decide
  have hrun := h.running hne h.phase
  have hspeed := h.speed_init (by rw [hp]; decide)
  have hc := h.unclassified hne (by rw [hp, Seq.classified])
  rw [Machine.readOcr, ocrExchanges_eq, h.ocr_start hp]
  refine of_unclassified ?_ h.phase hc nofun nofun
  exact State.Running.inv_of_init { hrun with bidx_le := by simp } (by simp) hspeed (h.admits (p := .s5Ocrbytes) hp)
    nofun nofun (by simp)

theorem classify (h : s.BetweenStages) (hp : s.seq = .s6Classify) : (classify s).BetweenStages := by
  obtain ⟨-, hw⟩ := h.unclassified (by rw [hp]; decide) (by rw [hp, Seq.classified])
  exact { (Move.classify hp).inv h.toInv with
    phase := h.phase, ended := nofun, ocr_start := nofun
    valid_points := fun _ => .inl rfl
    type_eq := fun _ => rfl
    warn_points := fun hw' => absurd (hw.symm.trans hw') Bool.false_ne_true }

theorem finalize (h : s.BetweenStages) (hp : s.seq = .s8Speed) : (finalize s).BetweenStages :=
  { (Move.finish (s := finalizeSpeed s) rfl).inv ((Move.speedOper hp).inv h.toInv) with
    phase := h.phase, ended := fun _ => rfl, ocr_start := nofun
    valid_points := fun _ => .inr rfl
    type_eq := h.type_eq
    warn_points := fun _ => .inr rfl }

end State.BetweenStages

/-! ### From the power-up to the end -/

/-- The state without what a transaction overwrites. -/
def State.fresh (s : State) : State :=
  { s with resp := .noResponse, polls := 0, bound := 0, bidx := 0, sel := false }

/-- Between two stages, or before the first transaction with whatever an earlier run left. -/
def State.InRun (s : State) : Prop := s.BetweenStages ∨ (s.seq = .s2Reset ∧ s.fresh.BetweenStages)

theorem State.BetweenStages.transaction {s : State} {c : Command} (h : s.BetweenStages)
    (hc : pointCommand s.params s.seq = some c) : (check (Machine.transact c s)).BetweenStages := by
  have hpoint : s.seq.isTransaction = true := isTransaction_iff.mpr ⟨c, hc⟩
  obtain ⟨f, hf⟩ := exists_judged (Machine.transact c s)
  rw [hf.check_eq]
  exact (h.transact hpoint c).judged (by rwa [transact_seq]) hf

theorem State.InRun.transaction {s : State} {c : Command} (h : s.InRun)
    (hc : pointCommand s.params s.seq = some c) : (check (transact c s)).BetweenStages := by
  obtain h | ⟨hp, h⟩ := h
  · exact h.transaction hc
  · have hsame : transact c s.fresh = transact c s := transact_overwrites c s ..
    rw [← hsame]
    exact h.transaction hc

theorem State.InRun.betweenStages {s : State} (h : s.InRun) (hp : s.seq ≠ .s2Reset) : s.BetweenStages :=
  h.resolve_right fun h => hp h.1

theorem inRun_stageProp : StageProp State.InRun where
  transaction h hc := .inl (h.transaction hc)
  ocr h hp := .inl ((h.betweenStages (by rw [hp]; decide)).readOcr hp)
  classify h hp := .inl ((h.betweenStages (by rw [hp]; decide)).classify hp)
  finalize h hp := .inl ((h.betweenStages (by rw [hp]; decide)).finalize hp)

/-- After the power-up of any block the run is under way. -/
theorem powerUp_inRun (s : State) : (powerUp s.acceptStart).InRun := by
  have hrun : (powerUp s.acceptStart).fresh.Running := by
    rw [powerUp_eq]
    exact ⟨rfl, rfl, rfl, rfl, rfl, Nat.zero_le _, Nat.le_refl _, Nat.zero_le _, Resp.noResponse_form⟩
  have hinv : (powerUp s.acceptStart).fresh.Inv := by
    rw [powerUp_eq] at hrun ⊢
    exact hrun.inv_of_init (by simp [State.fresh]) rfl rfl nofun (fun _ => by simp [State.fresh])
      (by simp [State.fresh])
  rw [powerUp_eq] at hinv ⊢
  exact .inr ⟨rfl, .of_unclassified hinv rfl ⟨rfl, rfl⟩ nofun nofun⟩

/-! ### The loops are left -/

/-- A loop is left for `q` or `IDLE` if every turn goes there or brings `m` down. -/
theorem whileAt_exits {P : State → Prop} {p q : Seq} {body : State → State} {m : State → Nat} (hq : q ≠ p)
    (hidle : .idle ≠ p) (hb : ∀ u, P u → u.seq = p → P (body u) ∧
      ((body u).seq = q ∨ (body u).seq = .idle ∨ (body u).seq = p ∧ m (body u) < m u))
    (n : Nat) {u : State} (hu : P u) (hseq : u.seq = p ∨ u.seq = .idle) (hm : m u < n) :
    P (whileAt p body n u) ∧ ((whileAt p body n u).seq = q ∨ (whileAt p body n u).seq = .idle) := by
  induction n generalizing u with
  | zero => omega
  | succ n ih =>
    obtain hp | hp := hseq
    · obtain ⟨hP, hnext | hnext | ⟨hstay, hlt⟩⟩ := hb u hu hp
      · rw [whileAt, if_pos hp, whileAt_of_ne (hnext ▸ hq)]
        exact ⟨hP, .inl hnext⟩
      · rw [whileAt, if_pos hp, whileAt_of_ne (hnext ▸ hidle)]
        exact ⟨hP, .inr hnext⟩
      · rw [whileAt, if_pos hp]
        exact ih hP (.inl hstay) (by omega)
    · rw [whileAt_of_ne (hp ▸ hidle)]
      exact ⟨hu, .inr hp⟩

/-- A stage made once leads from `p` to `q` or `IDLE`. -/
theorem atPoint_exits {P : State → Prop} {p q : Seq} {f : State → State} (hidle : .idle ≠ p)
    (hf : ∀ u, P u → u.seq = p → P (f u) ∧ ((f u).seq = q ∨ (f u).seq = .idle)) {u : State}
    (h : P u ∧ (u.seq = p ∨ u.seq = .idle)) :
    P (atPoint p f u) ∧ ((atPoint p f u).seq = q ∨ (atPoint p f u).seq = .idle) := by
  obtain ⟨hu, hp | hp⟩ := h
  · rw [atPoint_of_eq hp]
    exact hf u hu hp
  · rw [atPoint_of_ne (hp ▸ hidle)]
    exact ⟨hu, .inr hp⟩

section Exits

variable {u : State}

theorem State.InRun.attempt_lt (h : u.InRun) (hp : u.seq = .s2Reset) : u.attempt.toNat < 200 := by
  obtain h | ⟨-, h⟩ := h
  · exact h.toInv.attempt_lt hp
  · have hlt : u.fresh.attempt.toNat < 200 := h.toInv.attempt_lt hp
    exact hlt

theorem State.InRun.iter_lt (h : u.InRun) (hp : u.seq = .s4App) : u.iter.toNat < 65535 :=
  (h.betweenStages (by rw [hp]; decide)).toInv.iter_lt (.inl hp)

theorem transact_counters (c : Command) (s : State) :
    (transact c s).attempt = s.attempt ∧ (transact c s).iter = s.iter := by
  obtain ⟨k, r, -, ht⟩ := transact_spec c s
  rw [ht]
  exact ⟨rfl, rfl⟩

theorem toNat_succ_eq {w : Nat} {b : BitVec w} {n : Nat} (h : b.toNat < n) (hn : n < 2 ^ w) (hw : 1 < 2 ^ w) :
    (b + 1).toNat = b.toNat + 1 := by
  calc (b + 1).toNat = (b.toNat + 1 % 2 ^ w) % 2 ^ w := BitVec.toNat_add b 1
    _ = b.toNat + 1 := by rw [Nat.mod_eq_of_lt hw, Nat.mod_eq_of_lt (by omega)]

/-- One attempt of step 2 passes, fails, or leaves fewer attempts. -/
theorem State.InRun.resetAttempt (h : u.InRun) (hp : u.seq = .s2Reset) : (resetAttempt u).InRun ∧
    ((resetAttempt u).seq = .s3Ifcond ∨ (resetAttempt u).seq = .idle ∨
      (resetAttempt u).seq = .s2Reset ∧ 199 - (resetAttempt u).attempt.toNat < 199 - u.attempt.toNat) := by
  have hrun : (Machine.resetAttempt u).InRun := by
    rw [resetAttempt_eq hp]
    exact .inl (h.transaction (by rw [hp, pointCommand]))
  refine ⟨hrun, ?_⟩
  have hseq := (transact_seq cmd0Operands u).trans hp
  by_cases hr : (transact cmd0Operands u).resp = ⟨false, 0x01⟩
  · rw [Machine.resetAttempt, checkReset_of_idle hr]
    exact .inl rfl
  rw [Machine.resetAttempt, checkReset_of_ne hr] at hrun ⊢
  split_ifs at hrun ⊢
  · exact .inr (.inl rfl)
  · refine .inr (.inr ⟨hseq, ?_⟩)
    have hlt := hrun.attempt_lt hseq
    have hsucc := toNat_succ_eq (h.attempt_lt hp) (by decide) (by decide)
    rw [State.setAttempt_attempt, (transact_counters ..).1] at hlt ⊢
    omega

/-- One iteration of step 4 passes, fails, or leaves fewer iterations. -/
theorem State.InRun.opcondIteration (h : u.InRun) (hp : u.seq = .s4App) : (opcondIteration u).InRun ∧
    ((opcondIteration u).seq = .s5Ocrcmd ∨ (opcondIteration u).seq = .idle ∨
      (opcondIteration u).seq = .s4App ∧ 65534 - (opcondIteration u).iter.toNat < 65534 - u.iter.toNat) := by
  obtain ⟨hpoint, hparams⟩ := app_kept (cmd55Operands u.params.crcFiller) hp
  have hrun : (Machine.opcondIteration u).InRun := by
    rw [opcondIteration_eq hp]
    have happ := h.transaction (c := cmd55Operands u.params.crcFiller) (by rw [hp, pointCommand])
    exact .inl (happ.transaction (by rw [hpoint, hparams, pointCommand]))
  refine ⟨hrun, ?_⟩
  obtain ⟨v, hv, hiter⟩ : ∃ v, Machine.opcondIteration u = checkOpcond v ∧ v.iter = u.iter :=
    ⟨_, rfl, (transact_counters ..).2.trans (transact_counters (cmd55Operands u.params.crcFiller) u).2⟩
  by_cases hr : v.resp = ⟨false, 0x00⟩
  · rw [hv, checkOpcond_of_ready hr]
    exact .inl rfl
  rw [hv, checkOpcond_of_ne hr] at hrun ⊢
  split_ifs at hrun ⊢
  · exact .inr (.inl rfl)
  · refine .inr (.inr ⟨rfl, ?_⟩)
    have hlt := hrun.iter_lt rfl
    have hsucc := toNat_succ_eq (h.iter_lt hp) (by decide) (by decide)
    rw [State.goto_iter, State.setIter_iter, hiter] at hlt ⊢
    omega

theorem checkIfcond_exits (v : State) : (checkIfcond v).seq = .s4App ∨ (checkIfcond v).seq = .idle := by
  unfold checkIfcond
  split_ifs
  · exact .inl rfl
  · exact .inr rfl

theorem checkOcrcmd_exits (v : State) : (checkOcrcmd v).seq = .s5Ocrbytes ∨ (checkOcrcmd v).seq = .idle := by
  unfold checkOcrcmd
  split_ifs
  · exact .inl rfl
  · exact .inr rfl

end Exits

/-- The run ends at `IDLE`, with what holds between two stages: stage by stage the next point is reached, or `IDLE`. -/
theorem initSequence_ends (s : State) : (initSequence s).BetweenStages ∧ (initSequence s).seq = .idle := by
  have hP := inRun_stageProp.stageRel
  have hstart : (powerUp s.acceptStart).seq = .s2Reset := by
    rw [powerUp_eq]
  have h := whileAt_exits (m := fun u => 199 - u.attempt.toNat) (by decide) (by decide)
    (fun u (hu : u.InRun) hp => hu.resetAttempt hp) Config.resetAttemptMax (powerUp_inRun s) (.inl hstart)
    (Nat.lt_succ_of_le (Nat.sub_le ..))
  have h := atPoint_exits (by decide) (fun u hu hp => ⟨(hP.ifcond ⟨rfl, hu⟩ hp).2, checkIfcond_exits _⟩) h
  have h := whileAt_exits (m := fun u => 65534 - u.iter.toNat) (by decide) (by decide)
    (fun u (hu : u.InRun) hp => hu.opcondIteration hp) Config.opcondIterMax h.1 h.2
    (Nat.lt_succ_of_le (Nat.sub_le ..))
  have h := atPoint_exits (by decide) (fun u hu hp => ⟨(hP.ocrCommand ⟨rfl, hu⟩ hp).2, checkOcrcmd_exits _⟩) h
  have h := atPoint_exits (by decide) (fun u hu hp => ⟨(hP.ocr ⟨rfl, hu⟩ hp).2, .inl rfl⟩) h
  have h := atPoint_exits (by decide) (fun u hu hp => ⟨(hP.classify ⟨rfl, hu⟩ hp).2, .inl rfl⟩) h
  have h := atPoint_exits (by decide) (fun u hu hp => ⟨(hP.blklen ⟨rfl, hu⟩ hp).2, .inl rfl⟩) h
  have h := atPoint_exits (q := .idle) (by decide) (fun u hu hp => ⟨(hP.finalize ⟨rfl, hu⟩ hp).2, .inl rfl⟩) h
  have hidle : (initSequence s).seq = .idle := h.2.elim id id
  have hrun : (initSequence s).InRun := h.1
  exact ⟨hrun.betweenStages (by rw [hidle]; decide), hidle⟩

end Sys2Proof.Machine
end

section
/-!
The invariant of the whole machine (10_state.md R45) and what follows from it: every step of any kind keeps it, the host
reads a result exactly at the end of a run, the Card State only advances within a run, a failure is precise, and
`initializeCard` completes.
-/

namespace Sys2Proof.Machine

theorem exec_initializeCard (s : State) :
    exec .initializeCard s = .next (if s.seq = .idle then initSequence s else s) := rfl

theorem exec_initializeCard_idle {s : State} (hp : s.seq = .idle) :
    exec .initializeCard s = .next (initSequence s) := by
  rw [exec_initializeCard, if_pos hp]

/-! ### Every step keeps the invariant -/

/-- Settles O39: field by field, on the reset values. -/
theorem resetMeetsTheInvariant : Obligations.ResetMeetsTheInvariant := by
  unfold Obligations.ResetMeetsTheInvariant
  constructor <;> decide

/-- A reset gives the registers of `State.reset`. -/
theorem applyReset_inv (s : State) : s.applyReset.Inv := { resetMeetsTheInvariant with }

theorem State.Inv.advance {s : State} (h : s.Inv) : (advance s).Inv := by
  obtain ⟨f, hf⟩ := exists_move s
  rw [hf.advance_eq]
  exact hf.inv h

theorem State.Inv.receive {s : State} (h : s.Inv) (b : Byte) : (receive b s).Inv := by
  have hoffer : (s.offer [b]).Inv := { h with }
  unfold Machine.receive
  split
  case h_1 => exact hoffer.advance
  all_goals exact h

theorem State.Inv.poll {s : State} (h : s.Inv) (n : Nat) : (poll n s).Inv := by
  obtain ⟨k, r, ho, hpoll⟩ := poll_spec n s
  rw [hpoll]
  exact { h with polls_le := ho.le, resp_form := ho.resp_form }

/-- The OCR read at its start, followed by the classification. -/
theorem State.Inv.readOcr {s : State} (h : s.Inv) (hp : s.seq = .s5Ocrbytes) (hb : s.bidx = 0) :
    (classify (readOcr s)).Inv := by
  have hrun := h.running_at hp (by decide) rfl
  have hspeed := h.speed_init (by rw [hp]; decide)
  rw [Machine.readOcr, ocrExchanges_eq, hb]
  exact State.Running.inv_of_init { hrun with bidx_le := by simp [classify] } (by simp [classify]) hspeed rfl
    (fun _ => rfl) nofun (by simp [classify])

theorem runTransaction_inv {s t : State} {c : Command} (hinv : s.Inv) (h : runTransaction c s = .next t) : t.Inv := by
  obtain ⟨-, rfl⟩ := eq_transact_of_runTransaction h
  exact hinv.transact c

/-- Every operation that completes keeps the invariant. -/
theorem exec_inv {i : Instr} {s t : State} (hinv : s.Inv) (h : exec i s = .next t) : t.Inv := by
  cases i with
  | cmd0 | cmd8 => exact runTransaction_inv hinv h
  | cmd55 crc | cmd41 crc | cmd58 crc | cmd16 crc => exact runTransaction_inv hinv h
  | sendCommand index argument checksum => exact runTransaction_inv hinv h
  | acmd41 crc =>
    obtain ⟨-, rfl⟩ := eq_transact_of_execAcmd41 h
    exact (hinv.transact _).transact _
  | buildFrame index argument checksum =>
    obtain rfl := Host.Outcome.next.inj h
    exact { hinv with }
  | pollResponse n =>
    obtain rfl := Host.Outcome.next.inj h
    exact hinv.poll n
  | initializeCard =>
    obtain rfl := Host.Outcome.next.inj h
    split
    · exact (initSequence_ends s).1.toInv
    · exact hinv
  | respFiller | respReady | respIdle | respOther b =>
    obtain rfl := Host.Outcome.next.inj h
    exact hinv.receive _
  | ocr word =>
    obtain rfl := Host.Outcome.next.inj h
    split
    case isTrue hread =>
      have hoffer : (s.offer (ocrBytes word)).Inv := { hinv with }
      exact hoffer.readOcr hread.1 hread.2
    case isFalse => exact hinv

/-- Settles O38: a reset gives the reset values, a placed operation keeps it by `exec_inv`, the sequencer by `Move.inv`. -/
theorem everyStepKeepsTheInvariant : Obligations.EveryStepKeepsTheInvariant := by
  unfold Obligations.EveryStepKeepsTheInvariant
  intro s t hinv hstep
  obtain ⟨-, rfl⟩ | ⟨-, p, i, -, -, hexec⟩ | ⟨-, -, rfl⟩ := step_cases hstep
  · exact applyReset_inv s
  · have htake : s.takeSlot.Inv := { hinv with }
    exact exec_inv htake hexec
  · obtain ⟨hwait, -⟩ | ⟨hadvance, -⟩ := tick_cases s
    · rwa [hwait]
    · rw [hadvance]
      exact hinv.advance

/-! ### Results and failures -/

/-- Settles O40: `done` tells the final Card States, `ok` which of the two. -/
theorem hostReadsTheResult : Obligations.HostReadsTheResult := by
  unfold Obligations.HostReadsTheResult
  intro s hinv
  refine ⟨fun hdone => ?_, fun hdone hok => ?_, fun hdone hok => ?_⟩
  · have hfinal := mt hinv.done_iff.mpr (by simp [hdone])
    exact ⟨by rw [State.result, hdone]; rfl, fun hc => hfinal (.inl hc), fun hc => hfinal (.inr hc)⟩
  · have hready := hinv.ok_iff.mp ⟨hok, hdone⟩
    obtain ⟨hspeed, -, hvalid⟩ := hinv.ready_final hready
    exact ⟨by rw [State.result, hdone, hok]; rfl, hvalid, hready, hspeed⟩
  · have hnot : s.cardState ≠ .ready := fun hc => by
      have := (hinv.ok_iff.mpr hc).1
      exact absurd (hok.symm.trans this) Bool.false_ne_true
    have hfailed := (hinv.done_iff.mp hdone).resolve_left hnot
    exact ⟨s.errKind, hinv.failed_iff.mp hfailed, by rw [State.result, hdone, hok]; rfl, rfl, hfailed⟩

/-- A check that fails the run leaves what R211 says; no other check gives the Card State `Failed`. -/
theorem Judged.failed {s u : State} {f : State → State} (hf : Judged s f) (hu : u.cardState ≠ .failed)
    (hfailed : (f u).cardState = .failed) :
    (f u).seq = .idle ∧ (f u).done = true ∧ (f u).ok = false ∧ (f u).busy = false ∧ (f u).errKind ≠ .none ∧
      (f u).events = u.events := by
  cases hf
  case resetFailed | ifcondFailed | opcondFailed | ocrcmdFailed => exact ⟨rfl, rfl, rfl, rfl, nofun, rfl⟩
  case resetAgain | app | opcondAgain | ocrcmdPassed | none => exact absurd hfailed hu
  all_goals exact nomatch hfailed

/-- Settles O35: of the moves only the release byte can lead to `Failed`, by a check that fails. -/
theorem failureIsPrecise : Obligations.FailureIsPrecise := by
  unfold Obligations.FailureIsPrecise
  intro s t hinv hs hr hstep hnot hfailed
  obtain ⟨rfl, -⟩ | ⟨f, hf, rfl⟩ := step_sequencer_cases hs hr hstep
  · exact absurd hfailed hnot
  cases hf
  case release f hpoint htph hf =>
    obtain ⟨hseq, hdone, hok, hbusy, herr, hevents⟩ := hf.failed (u := s.release) hnot hfailed
    obtain ⟨hspeed, hsel, -, hresp, hphase⟩ := hf.kept (u := s.release)
    have hsel' : s.sel = false := by rw [hinv.sel_iff, htph, Phase.selected]
    refine ⟨htph, hphase, hsel.trans hsel', hspeed.trans (hinv.speed_init (Seq.ne_idle_of_isTransaction hpoint)),
      hseq, hdone, hok, hbusy, herr, hresp, ?_⟩
    rw [hevents, State.release_eq]
  case start | classify | finish => exact nomatch hfailed
  all_goals exact absurd hfailed hnot

/-! ### The Card State advances -/

theorem CardState.rank_le_failed (c : CardState) : c.rank ≤ CardState.failed.rank := by
  cases c <;> decide

/-- The Card States a point admits are all of a rank below those that follow it. -/
theorem rank_le_of_admits {p : Seq} {c d : CardState} (h : p.admits c = true)
    (hd : ∀ c, p.admits c = true → c.rank ≤ d.rank) : c.rank ≤ d.rank := hd c h

/-- A check advances the Card State of its point, or keeps it. -/
theorem Judged.rank_le {s u : State} {f : State → State} (hf : Judged s f) (hinv : s.Inv)
    (hu : u.cardState = s.cardState) : s.cardState.rank ≤ (f u).cardState.rank := by
  cases hf
  case resetFailed | ifcondFailed | opcondFailed | ocrcmdFailed => exact CardState.rank_le_failed _
  case resetAgain | app | opcondAgain | ocrcmdPassed | none => exact (congrArg _ hu).ge
  case resetPassed hp _ => exact rank_le_of_admits (d := .reset) (hinv.admits hp) (by intro c; cases c <;> decide)
  case ifcondPassed hp _ =>
    exact rank_le_of_admits (d := .versionChecked) (hinv.admits hp) (by intro c; cases c <;> decide)
  case opcondPassed hp _ =>
    exact rank_le_of_admits (d := .voltageNegotiated) (hinv.admits hp) (by intro c; cases c <;> decide)
  case blklenPassed hp _ | blklenReported hp _ _ | blklenWarned hp _ _ =>
    exact rank_le_of_admits (d := .blockLengthSet) (hinv.admits hp) (by intro c; cases c <;> decide)

theorem Move.rank_le {s : State} {f : State → State} (hf : Move s f) (hinv : s.Inv) (hp : s.seq ≠ .idle) :
    s.cardState.rank ≤ (f s).cardState.rank := by
  cases hf
  case start hidle _ => exact absurd hidle hp
  case release f _ _ hf => exact hf.rank_le (u := s.release) hinv rfl
  case classify hp => exact rank_le_of_admits (d := .capacityKnown) (hinv.admits hp) (by intro c; cases c <;> decide)
  case finish hp => exact rank_le_of_admits (d := .ready) (hinv.admits hp) (by intro c; cases c <;> decide)
  all_goals exact le_rfl

theorem State.Inv.advance_rank_le {s : State} (hinv : s.Inv) (hp : s.seq ≠ .idle) :
    s.cardState.rank ≤ (Machine.advance s).cardState.rank := by
  obtain ⟨f, hf⟩ := exists_move s
  rw [hf.advance_eq]
  exact hf.rank_le hinv hp

theorem State.Inv.receive_rank_le {s : State} (hinv : s.Inv) (hp : s.seq ≠ .idle) (b : Byte) :
    s.cardState.rank ≤ (Machine.receive b s).cardState.rank := by
  have hoffer : (s.offer [b]).Inv := { hinv with }
  unfold Machine.receive
  split
  case h_1 => exact hoffer.advance_rank_le hp
  all_goals exact le_rfl

theorem transact_cardState (c : Command) (s : State) : (transact c s).cardState = s.cardState := by
  obtain ⟨k, r, -, ht⟩ := transact_spec c s
  rw [ht]
  rfl

theorem runTransaction_rank_le {s t : State} {c : Command} (h : runTransaction c s = .next t) :
    s.cardState.rank ≤ t.cardState.rank := by
  obtain ⟨-, rfl⟩ := eq_transact_of_runTransaction h
  rw [transact_cardState]

/-- Within a run every operation that completes keeps the Card State or advances it. -/
theorem exec_rank_le {i : Instr} {s t : State} (hinv : s.Inv) (hp : s.seq ≠ .idle) (h : exec i s = .next t) :
    s.cardState.rank ≤ t.cardState.rank := by
  cases i with
  | cmd0 | cmd8 => exact runTransaction_rank_le h
  | cmd55 crc | cmd41 crc | cmd58 crc | cmd16 crc => exact runTransaction_rank_le h
  | sendCommand index argument checksum => exact runTransaction_rank_le h
  | acmd41 crc =>
    obtain ⟨-, rfl⟩ := eq_transact_of_execAcmd41 h
    rw [transact_cardState, transact_cardState]
  | buildFrame index argument checksum =>
    obtain rfl := Host.Outcome.next.inj h
    exact le_rfl
  | pollResponse n =>
    obtain rfl := Host.Outcome.next.inj h
    obtain ⟨k, r, -, hpoll⟩ := poll_spec n s
    rw [hpoll]
  | initializeCard =>
    rw [exec_initializeCard, if_neg hp] at h
    obtain rfl := Host.Outcome.next.inj h
    exact le_rfl
  | respFiller | respReady | respIdle | respOther b =>
    obtain rfl := Host.Outcome.next.inj h
    exact hinv.receive_rank_le hp _
  | ocr word =>
    obtain rfl := Host.Outcome.next.inj h
    split
    case isTrue hread =>
      exact rank_le_of_admits (d := .capacityKnown) (hinv.admits hread.1) (by intro c; cases c <;> decide)
    case isFalse => exact le_rfl

/-- Settles O41: a placed operation by `exec_rank_le`, the sequencer by `Move.rank_le`. -/
theorem cardStateOnlyAdvances : Obligations.CardStateOnlyAdvances := by
  unfold Obligations.CardStateOnlyAdvances
  intro s t hinv hr hp hstep
  obtain ⟨hreset, -⟩ | ⟨-, p, i, -, -, hexec⟩ | ⟨-, -, rfl⟩ := step_cases hstep
  · exact absurd (hr.symm.trans hreset) Bool.false_ne_true
  · have htake : s.takeSlot.Inv := { hinv with }
    have hle : s.takeSlot.cardState.rank ≤ t.cardState.rank := exec_rank_le htake hp hexec
    exact hle
  · obtain ⟨hwait, -⟩ | ⟨hadvance, -⟩ := tick_cases s
    · rw [hwait]
    · rw [hadvance]
      exact hinv.advance_rank_le hp

/-! ### The whole operation -/

/-- Settles O48: the run ends at `IDLE` with the invariant and `done` (`initSequence_ends`); its two ends are the two final
Card States. -/
theorem initializeCardCompletes : Obligations.InitializeCardCompletes := by
  unfold Obligations.InitializeCardCompletes
  intro s hp
  obtain ⟨h, hidle⟩ := initSequence_ends s
  have hexec := exec_initializeCard_idle hp
  have hbusy : (initSequence s).busy = false := by
    rw [← Bool.not_eq_true, h.busy_iff]
    exact fun hne => hne hidle
  have hdone := h.ended hidle
  have hsel : (initSequence s).sel = false := by rw [h.sel_iff, h.phase, Phase.selected]
  refine ⟨_, hexec, hidle, h.phase, hbusy, hdone, hsel, h.attempt_le, (initSequence_sameInputs s).params, ?_⟩
  obtain hready | hfailed := h.done_iff.mp hdone
  · obtain ⟨hok, -⟩ := h.ok_iff.mpr hready
    obtain ⟨hspeed, -, hvalid⟩ := h.ready_final hready
    have herr : (initSequence s).errKind = .none := by
      by_contra hne
      exact nomatch hready.symm.trans (h.failed_iff.mpr hne)
    exact .inl ⟨hok, hready, herr, hvalid, hspeed, h.type_eq hvalid⟩
  · have hnot : (initSequence s).cardState ≠ .ready := by rw [hfailed]; decide
    have hok : (initSequence s).ok = false := by
      rw [← Bool.not_eq_true]
      exact fun hok => hnot (h.ok_iff.mp ⟨hok, hdone⟩)
    have hvalid : (initSequence s).cardTypeValid = false := by
      rw [← Bool.not_eq_true]
      intro hv
      have := h.valid_points hv
      rw [hidle, Seq.classified] at this
      exact hnot (this.resolve_left Bool.false_ne_true)
    have hwarn : (initSequence s).warnBlklen = false := by
      rw [← Bool.not_eq_true]
      intro hw
      have := h.warn_points hw
      rw [hidle] at this
      exact hnot (this.resolve_left nofun)
    exact .inr ⟨hok, hfailed, h.failed_iff.mp hfailed, hvalid, (h.failed_final hfailed).1, hwarn⟩

end Sys2Proof.Machine
end

section
/-!
The sequencer carries out what the operations say (42_transaction.md R141 to R147, 43_init_sequence.md R161 to R187):
from a live state its steps lead through a whole transaction to the check of the point, and through all stages of a run.
-/

namespace Sys2Proof.Machine

/-! ### Runs from a live state -/

/-- From a live `s` some number of steps leads to `t`, live again. -/
def Runs (s t : State) : Prop := s.Live → t.Live ∧ ∃ n, core.run n s = .next t

theorem Runs.trans {s t u : State} (h : Runs s t) (h' : Runs t u) : Runs s u := fun hlive => by
  obtain ⟨hlive, m, hm⟩ := h hlive
  obtain ⟨hlive, n, hn⟩ := h' hlive
  exact ⟨hlive, m + n, (run_add hm).trans hn⟩

/-- One move is one step. -/
theorem Move.runs {s : State} {f : State → State} (h : Move s f) : Runs s (f s) := fun hlive =>
  ⟨h.sameInputs.live hlive, 1, run_one (by rw [step_live hlive, h.advance_eq])⟩

/-! ### A transaction, phase by phase -/

section Transaction

variable {s : State} {c : Command}

theorem sendBytes_enterPhase (bs : List Byte) (p : Phase) (s : State) :
    sendBytes bs (s.enterPhase p) = (sendBytes bs s).enterPhase p := by
  induction bs generalizing s with
  | nil => rfl
  | cons b bs ih => exact ih (s.sendXchg b)

/-- From the start to the first frame byte: the frame is built, the card selected, the settle byte sent. -/
theorem runs_settle (hc : pointCommand s.params s.seq = some c) (htph : s.tph = .none) :
    Runs s ((((s.writeFrame c.frame).selAssert.xchg Config.filler).setBidx 0).enterPhase .frame) := by
  have hpoint : s.seq.isTransaction = true := isTransaction_iff.mpr ⟨c, hc⟩
  have hbuild := (Move.build c hc htph).runs
  have hselect := (Move.select (s := (s.writeFrame c.frame).enterPhase .assert) hpoint rfl).runs
  have hsettle := (Move.settle
    (s := ((s.writeFrame c.frame).enterPhase .assert).selAssert.enterPhase .settle) hpoint rfl).runs
  exact hbuild.trans (hselect.trans hsettle)

/-- The frame bytes from the one the counter selects on, after which the poll begins. -/
theorem runs_frame (bs : List Byte) (hc : pointCommand s.params s.seq = some c) (htph : s.tph = .frame)
    (hbs : s.frame.toList.drop s.bidx.toNat = bs) (hne : bs ≠ []) : Runs s (enterPoll c (sendBytes bs s)) := by
  have hpoint : s.seq.isTransaction = true := isTransaction_iff.mpr ⟨c, hc⟩
  induction bs generalizing s with
  | nil => exact absurd rfl hne
  | cons b bs ih =>
    have hbyte : s.frameByte = some b := by
      rw [State.frameByte, ← List.head?_drop, hbs]
      rfl
    have hlength : 6 - s.bidx.toNat = bs.length + 1 := by
      simpa using congrArg List.length hbs
    cases bs with
    | nil => exact (Move.sendLast c b hc htph hbyte (by simp at hlength; omega)).runs
    | cons b' bs =>
      have hlt : s.bidx.toNat + 1 < 6 := by simp at hlength; omega
      have hnext : (s.sendXchg b).frame.toList.drop (s.sendXchg b).bidx.toNat = b' :: bs := by
        rw [State.sendXchg_bidx, toNat_succ_eq (n := 6) (by omega) (by decide) (by decide), State.sendXchg_frame,
          ← List.drop_drop, hbs]
        rfl
      exact (Move.send b hpoint htph hbyte hlt).runs.trans (ih hc htph hnext (List.cons_ne_nil _ _) hpoint)

/-- The poll, which ends by a reply or with no exchange left. -/
theorem runs_poll (n : Nat) (hpoint : s.seq.isTransaction = true) (htph : s.tph = .poll) (hn : s.polls + n = s.bound) :
    Runs s ((pollLoop n s).enterPhase .deassert) := by
  induction n generalizing s with
  | zero => exact (Move.pollBound hpoint htph (by omega)).runs
  | succ n ih =>
    rw [pollLoop]
    split
    case isTrue hb =>
      exact (Move.pollFiller hpoint htph (by omega) hb).runs.trans (ih hpoint htph (by simp; omega))
    case isFalse hb => exact (Move.pollReply hpoint htph (by omega) hb).runs

/-- The deselect call and the release byte, with the check. -/
theorem runs_release (hpoint : s.seq.isTransaction = true) (htph : s.tph = .deassert) :
    Runs s (check ((s.selDeassert.xchg Config.filler).enterPhase .none)) := by
  have hdeselect := (Move.deselect hpoint htph).runs
  obtain ⟨f, hf⟩ := exists_judged (s.selDeassert.enterPhase .trail)
  have hrelease := (Move.release (s := s.selDeassert.enterPhase .trail) f hpoint rfl hf).runs
  have hcheck : Judged (s.selDeassert.enterPhase .trail).release f := hf.congr rfl rfl rfl rfl fun _ => rfl
  have hsame : f (s.selDeassert.enterPhase .trail).release =
      check ((s.selDeassert.xchg Config.filler).enterPhase .none) := hcheck.check_eq.symm
  rw [← hsame]
  exact hdeselect.trans hrelease

/-- The whole transaction of a program point and its check. -/
theorem runs_transact (hc : pointCommand s.params s.seq = some c) (htph : s.tph = .none) :
    Runs s (check (transact c s)) := by
  have hpoint : s.seq.isTransaction = true := isTransaction_iff.mpr ⟨c, hc⟩
  set u := ((s.writeFrame c.frame).selAssert.xchg Config.filler).setBidx 0 with hu
  set v := sendBytes c.frame.toList u with hv
  have hseq : v.seq = s.seq := by rw [hv, sendBytes_seq]; rfl
  have hframe : Runs (u.enterPhase .frame) (enterPoll c (sendBytes c.frame.toList (u.enterPhase .frame))) :=
    runs_frame c.frame.toList hc rfl rfl (by rw [frame_toList]; exact List.cons_ne_nil _ _)
  rw [sendBytes_enterPhase, ← hv] at hframe
  have hpoll := runs_poll (s := enterPoll c (v.enterPhase .frame)) (v.pollBoundOf c.index)
    (by rwa [← hseq] at hpoint) rfl (Nat.zero_add _)
  have hloop : (pollLoop (v.pollBoundOf c.index) (enterPoll c (v.enterPhase .frame))).enterPhase .deassert =
      (poll (v.pollBoundOf c.index) v).enterPhase .deassert := by
    have hphase := pollLoop_enterPhase (v.pollBoundOf c.index) .poll (v.startPoll (v.pollBoundOf c.index))
    have hdeassert := congrArg (State.enterPhase .deassert) hphase
    exact hdeassert
  rw [hloop] at hpoll
  have hpoint' : (poll (v.pollBoundOf c.index) v).seq.isTransaction = true := by
    obtain ⟨k, r, -, hspec⟩ := poll_spec (v.pollBoundOf c.index) v
    rw [hspec]
    rwa [← hseq] at hpoint
  have hrelease := runs_release (s := (poll (v.pollBoundOf c.index) v).enterPhase .deassert) hpoint' rfl
  exact (runs_settle hc htph).trans (hframe.trans (hpoll.trans hrelease))

end Transaction

/-- Settles O18: a live state at a transaction point runs through the transaction, by `runs_transact`. -/
theorem stepsCarryOutTheTransaction : Obligations.StepsCarryOutTheTransaction := by
  unfold Obligations.StepsCarryOutTheTransaction
  intro s c hlive htph hc
  obtain ⟨-, n, hn⟩ := runs_transact hc htph hlive
  exact ⟨n, transact c s, runTransaction_of_none htph c, hn⟩

/-! ### The whole run -/

theorem runs_powerUp (s : State) : Runs s.acceptStart (powerUp s.acceptStart) := by
  have hspeed := (Move.speedInit (s := s.acceptStart) rfl).runs
  have hdelay := (Move.delay (s := s.acceptStart.speedInit.goto .s1Delay) rfl).runs
  have hclocks : Runs s.acceptStart.atClocks (powerUp s.acceptStart) := fun hlive => by
    obtain ⟨hr, hs, hack⟩ := hlive
    exact ⟨(powerUp_sameInputs s.acceptStart).live ⟨hr, hs, hack⟩, 10,
      by rw [powerUp_clocks, run_s1Clocks_all ⟨hr, hs, hack⟩ rfl rfl]⟩
  exact hspeed.trans (hdelay.trans hclocks)

theorem runs_readOcr {s : State} (hp : s.seq = .s5Ocrbytes) (hb : s.bidx = 0) : Runs s (readOcr s) := fun hlive =>
  ⟨(readOcr_sameInputs s).live hlive, 4, run_s5Ocrbytes hlive hp hb⟩

theorem State.InRun.phase {s : State} (h : s.InRun) : s.tph = .none :=
  h.elim (fun h => h.phase) fun h => h.2.phase

/-- From the acceptance of the start the steps lead through every stage. -/
theorem runs_stageProp (s : State) : StageProp fun u => Runs s u ∧ u.InRun where
  transaction h hc := ⟨h.1.trans (runs_transact hc h.2.phase), inRun_stageProp.transaction h.2 hc⟩
  ocr h hp := by
    have hbidx := (h.2.betweenStages (by rw [hp]; decide)).ocr_start hp
    exact ⟨h.1.trans (runs_readOcr hp hbidx), inRun_stageProp.ocr h.2 hp⟩
  classify h hp := ⟨h.1.trans (Move.classify hp).runs, inRun_stageProp.classify h.2 hp⟩
  finalize {u} h hp :=
    ⟨h.1.trans ((Move.speedOper hp).runs.trans (Move.finish (s := finalizeSpeed u) rfl).runs),
      inRun_stageProp.finalize h.2 hp⟩

theorem runs_initSequence (s : State) : Runs s.acceptStart (initSequence s) :=
  ((runs_stageProp s.acceptStart).initSequence ⟨runs_powerUp s, powerUp_inRun s⟩).1

/-- Settles O49: the start is accepted in one step, and the steps go on as `runs_initSequence`. -/
theorem stepsCarryOutInitializeCard : Obligations.StepsCarryOutInitializeCard := by
  unfold Obligations.StepsCarryOutInitializeCard
  intro s hlive hp hstart
  obtain ⟨-, n, hn⟩ := (Move.start hp hstart).runs.trans (runs_initSequence s) hlive
  exact ⟨n, initSequence s, exec_initializeCard_idle hp, hn⟩

end Sys2Proof.Machine
end

section
/-!
Two runs compared (70_reset_and_hazards.md R244): with the same parameters and the same bytes to come, the stages of two runs
keep alike what the host and the bus can tell, whatever the other registers held before.
-/

namespace Sys2Proof.Machine

/-- Two runs, begun with the records `b₁` and `b₂`, are at the same point with the same bytes to come, and differ at most in
registers that are written before they are read again. -/
structure Alike (b₁ b₂ : List Event) (u v : State) : Prop where
  seq : v.seq = u.seq
  params : v.params = u.params
  rx : v.rx = u.rx
  rxCount : v.rxCount = u.rxCount
  attempt : v.attempt = u.attempt
  cardState : v.cardState = u.cardState
  errKind : v.errKind = u.errKind
  cardTypeValid : v.cardTypeValid = u.cardTypeValid
  busSpeed : v.busSpeed = u.busSpeed
  busy : v.busy = u.busy
  done : v.done = u.done
  ok : v.ok = u.ok
  warnBlklen : v.warnBlklen = u.warnBlklen
  iter : u.seq = .s4App ∨ u.seq = .s4Opcond → v.iter = u.iter
  ocr : u.seq = .s6Classify → v.ocr = u.ocr
  cardType : u.cardTypeValid = true → v.cardType = u.cardType
  events : ∃ es, u.events = es ++ b₁ ∧ v.events = es ++ b₂

/-- Further events on both sides. -/
theorem appended_events {b₁ b₂ l₁ l₂ : List Event} (h : ∃ es, l₁ = es ++ b₁ ∧ l₂ = es ++ b₂) (new : List Event) :
    ∃ es, new ++ l₁ = es ++ b₁ ∧ new ++ l₂ = es ++ b₂ := by
  obtain ⟨es, rfl, rfl⟩ := h
  exact ⟨new ++ es, (List.append_assoc ..).symm, (List.append_assoc ..).symm⟩

section SameBytes

variable {u v : State} (hx : v.rx = u.rx) (hc : v.rxCount = u.rxCount)

include hx hc

theorem pollEvents_congr (first k : Nat) : pollEvents v first k = pollEvents u first k := by
  simp only [pollEvents, State.byteAt_congr hx hc]

theorem transactionEvents_congr (f : Vector Byte 6) (k : Nat) :
    transactionEvents v f k = transactionEvents u f k := by
  simp only [transactionEvents, pollEvents_congr hx hc, State.byteAt_congr hx hc]

theorem PollOutcome.congr {first bound k : Nat} {r : Resp} (h : PollOutcome v first bound k r) :
    PollOutcome u first bound k r := by
  simpa only [PollOutcome, State.byteAt_congr hx hc] using h

end SameBytes

namespace Alike

variable {b₁ b₂ : List Event} {u v : State}

/-- A transaction receives the same bytes in both runs, and so gives the same response. -/
theorem transact (h : Alike b₁ b₂ u v) (c : Command) :
    Alike b₁ b₂ (transact c u) (transact c v) ∧ (transact c v).resp = (transact c u).resp := by
  obtain ⟨k, r, hou, hu⟩ := transact_spec c u
  obtain ⟨k', r', hov, hv⟩ := transact_spec c v
  have hbound : v.pollBoundOf c.index = u.pollBoundOf c.index := by rw [State.pollBoundOf, h.params, State.pollBoundOf]
  rw [hbound] at hov hv
  obtain ⟨rfl, rfl⟩ := hou.unique (hov.congr h.rx h.rxCount)
  have hevents := appended_events h.events (transactionEvents u c.frame k').reverse
  rw [hu, hv, afterTransaction, afterTransaction, transactionEvents_congr h.rx h.rxCount, h.rx, h.rxCount]
  exact ⟨{ h with rx := rfl, rxCount := rfl, events := hevents }, rfl⟩

/-- The same judgement in both runs keeps them alike. -/
theorem judged (h : Alike b₁ b₂ u v) {f : State → State} (hf : Judged u f) : Alike b₁ b₂ (f u) (f v) := by
  have hattempt : v.attempt + 1 = u.attempt + 1 := congrArg (· + 1) h.attempt
  cases hf
  case resetPassed =>
    exact { h with seq := rfl, attempt := hattempt, cardState := rfl, iter := nofun, ocr := nofun }
  case resetFailed =>
    exact { h with
      seq := rfl, attempt := hattempt, cardState := rfl, errKind := rfl, busy := rfl, done := rfl, ok := rfl
      iter := nofun, ocr := nofun }
  case resetAgain => exact { h with attempt := hattempt }
  case ifcondPassed => exact { h with seq := rfl, cardState := rfl, iter := fun _ => rfl, ocr := nofun }
  case ifcondFailed | ocrcmdFailed =>
    exact { h with
      seq := rfl, cardState := rfl, errKind := rfl, busy := rfl, done := rfl, ok := rfl, iter := nofun, ocr := nofun }
  case app hp => exact { h with seq := rfl, iter := fun _ => h.iter (.inl hp), ocr := nofun }
  case opcondPassed => exact { h with seq := rfl, cardState := rfl, iter := nofun, ocr := nofun }
  case opcondFailed =>
    exact { h with
      seq := rfl, cardState := rfl, errKind := rfl, busy := rfl, done := rfl, ok := rfl, iter := nofun, ocr := nofun }
  case opcondAgain hp _ _ =>
    exact { h with seq := rfl, iter := fun _ => congrArg (· + 1) (h.iter (.inr hp)), ocr := nofun }
  case ocrcmdPassed => exact { h with seq := rfl, iter := nofun, ocr := nofun }
  case blklenPassed => exact { h with seq := rfl, cardState := rfl, iter := nofun, ocr := nofun }
  case blklenReported =>
    exact { h with
      seq := rfl, cardState := rfl, warnBlklen := rfl, iter := nofun, ocr := nofun
      events := appended_events h.events [.diag Config.wBlklen] }
  case blklenWarned => exact { h with seq := rfl, cardState := rfl, warnBlklen := rfl, iter := nofun, ocr := nofun }
  case none => exact h

theorem check (h : Alike b₁ b₂ u v) (hr : v.resp = u.resp) : Alike b₁ b₂ (check u) (check v) := by
  obtain ⟨f, hf⟩ := exists_judged u
  rw [hf.check_eq, (hf.congr h.seq hr h.params h.attempt fun hp => h.iter (.inr hp)).check_eq]
  exact h.judged hf

/-- The four OCR exchanges receive the same bytes in both runs, and leave nothing of the OCR before them. -/
theorem readOcr (h : Alike b₁ b₂ u v) : Alike b₁ b₂ (readOcr u) (readOcr v) := by
  have hevents := appended_events h.events (pollEvents u 0 4).reverse
  rw [Machine.readOcr, Machine.readOcr, ocrExchanges_eq, ocrExchanges_eq, pollEvents_congr h.rx h.rxCount, h.rx, h.rxCount]
  simp only [State.byteAt_congr h.rx h.rxCount]
  exact { h with seq := rfl, rx := rfl, rxCount := rfl, iter := nofun, ocr := fun _ => rfl, events := hevents }

theorem classify (h : Alike b₁ b₂ u v) (hp : u.seq = .s6Classify) : Alike b₁ b₂ (classify u) (classify v) :=
  { h with
    seq := rfl, cardState := rfl, cardTypeValid := rfl, iter := nofun, ocr := nofun
    cardType := fun _ => congrArg cardTypeOf (h.ocr hp) }

theorem finalize (h : Alike b₁ b₂ u v) : Alike b₁ b₂ (finalize u) (finalize v) :=
  { h with
    seq := rfl, cardState := rfl, busSpeed := rfl, busy := rfl, done := rfl, ok := rfl, iter := nofun, ocr := nofun
    events := appended_events h.events [.selDeassert, .speedOper] }

end Alike

theorem alike_stageRel (b₁ b₂ : List Event) : StageRel (Alike b₁ b₂) where
  agree h := ⟨h.seq, h.params⟩
  transaction {_ _ c} h _ := (h.transact c).1.check (h.transact c).2
  ocr h _ := h.readOcr
  classify h hp := h.classify hp
  finalize h _ := h.finalize

/-- The power-up makes two blocks with the same parameters and bytes alike. -/
theorem powerUp_alike {s t : State} (hparams : t.params = s.params) (hx : t.rx = s.rx) (hc : t.rxCount = s.rxCount) :
    Alike s.events t.events (powerUp s.acceptStart) (powerUp t.acceptStart) := by
  have hevents := appended_events (l₁ := s.events) (l₂ := t.events) ⟨[], rfl, rfl⟩
    ((pollEvents s.acceptStart 0 10).reverse ++ [.delay 100, .speedInit])
  rw [List.append_assoc, List.append_assoc] at hevents
  rw [powerUp_eq, powerUp_eq, pollEvents_congr (u := s.acceptStart) (v := t.acceptStart) hx hc]
  exact {
    seq := rfl, params := hparams, rx := congrArg (List.drop 10) hx, rxCount := congrArg (· + 10) hc, attempt := rfl
    cardState := rfl, errKind := rfl, cardTypeValid := rfl, busSpeed := rfl, busy := rfl, done := rfl, ok := rfl
    warnBlklen := rfl, iter := nofun, ocr := nofun, cardType := nofun, events := hevents }

/-- Settles O50: the two runs are alike to the end, and both end deselected. -/
theorem aRunForgetsThePast : Obligations.ARunForgetsThePast := by
  unfold Obligations.ARunForgetsThePast
  intro s₁ s₂ hp₁ hp₂ hparams hx hc
  have hdeselected (s : State) : (initSequence s).sel = false := by
    obtain ⟨h, -⟩ := initSequence_ends s
    rw [h.sel_iff, h.phase, Phase.selected]
  have h := (alike_stageRel _ _).initSequence (powerUp_alike hparams.symm hx.symm hc.symm)
  exact ⟨_, _, exec_initializeCard_idle hp₁, exec_initializeCard_idle hp₂, h.cardState.symm, h.errKind.symm,
    h.cardTypeValid.symm, fun hv => (h.cardType hv).symm, h.busSpeed.symm, (hdeselected s₁).trans (hdeselected s₂).symm,
    h.busy.symm, h.done.symm, h.ok.symm, h.warnBlklen.symm, h.events⟩

end Sys2Proof.Machine
end

section
/-!
What a number of transactions receive and emit: how many exchanges, which bytes sent, which calls. And step 2 of a run on a
card whose answers are known (43_init_sequence.md R165, R166).
-/

namespace Sys2Proof.Machine

/-! ### Counting events -/

/-- The events `es` have `n` exchanges, those of the frames of `cs` among them, and one pair of select calls for each. -/
structure Tally (es : List Event) (n : Nat) (cs : List Command) : Prop where
  xchgs : es.countP Event.isXchg = n
  sent : ∀ b, b ≠ 0xFF#8 → es.countP (Event.sent b) = (cs.map fun c => c.frame.toList.count b).sum
  selects : es.count .selAssert = cs.length
  deselects : es.count .selDeassert = cs.length
  speeds : es.count .speedOper = 0

namespace Tally

theorem nil : Tally [] 0 [] := ⟨rfl, fun _ _ => rfl, rfl, rfl, rfl⟩

theorem append {es es' : List Event} {n n' : Nat} {cs cs' : List Command} (h : Tally es n cs) (h' : Tally es' n' cs') :
    Tally (es ++ es') (n + n') (cs ++ cs') where
  xchgs := by rw [List.countP_append, h.xchgs, h'.xchgs]
  sent b hb := by rw [List.countP_append, h.sent b hb, h'.sent b hb, List.map_append, List.sum_append]
  selects := by rw [List.count_append, h.selects, h'.selects, List.length_append]
  deselects := by rw [List.count_append, h.deselects, h'.deselects, List.length_append]
  speeds := by rw [List.count_append, h.speeds, h'.speeds]

theorem reverse {es : List Event} {n : Nat} {cs : List Command} (h : Tally es n cs) : Tally es.reverse n cs where
  xchgs := by rw [List.countP_reverse, h.xchgs]
  sent b hb := by rw [List.countP_reverse, h.sent b hb]
  selects := by rw [List.count_reverse, h.selects]
  deselects := by rw [List.count_reverse, h.deselects]
  speeds := by rw [List.count_reverse, h.speeds]

/-- Exchanges that send the filler. -/
theorem fillers (l : List Byte) : Tally (l.map (.xchg 0xFF)) l.length [] where
  xchgs := by simp [List.countP_map, Function.comp_def, Event.isXchg]
  sent b hb := by simp [List.countP_map, Function.comp_def, Event.sent, hb.symm]
  selects := by simp [List.count_eq_zero]
  deselects := by simp [List.count_eq_zero]
  speeds := by simp [List.count_eq_zero]

theorem pollEvents (s : State) (first k : Nat) : Tally (pollEvents s first k) k [] := by
  simpa [Machine.pollEvents, Function.comp_def] using fillers ((List.range k).map fun j => s.byteAt (first + j))

/-- The events of a transaction with `k` poll exchanges. -/
theorem transaction (s : State) (c : Command) (k : Nat) : Tally (transactionEvents s c.frame k) (8 + k) [c] where
  xchgs := by
    simp only [transactionEvents, List.countP_append, (pollEvents s 7 k).xchgs, List.countP_cons, List.countP_nil,
      Event.isXchg, if_true, Bool.false_eq_true, if_false]
    omega
  sent b hb := by
    rw [List.map_singleton, List.sum_singleton, frame_toList]
    simp [transactionEvents, (pollEvents s 7 k).sent b hb, List.countP_cons, List.count_cons, Event.sent, hb.symm]
  selects := by simp [transactionEvents, (pollEvents s 7 k).selects]
  deselects := by simp [transactionEvents, (pollEvents s 7 k).deselects]
  speeds := by simp [transactionEvents, (pollEvents s 7 k).speeds]

end Tally

/-! ### From one state to a later one -/

/-- From `u` to `v` there were `n` exchanges, with the events of the transactions `cs`; neither the parameters nor the
warning changed. -/
structure Exchanged (u v : State) (n : Nat) (cs : List Command) : Prop where
  params : v.params = u.params
  rx : v.rx = u.rx.drop n
  rxCount : v.rxCount = u.rxCount + n
  warn : v.warnBlklen = u.warnBlklen
  events : ∃ es, v.events = es.reverse ++ u.events ∧ Tally es n cs

namespace Exchanged

variable {u v w : State} {n m : Nat} {cs ds : List Command}

theorem trans (h : Exchanged u v n cs) (h' : Exchanged v w m ds) : Exchanged u w (n + m) (cs ++ ds) where
  params := h'.params.trans h.params
  rx := by rw [h'.rx, h.rx, List.drop_drop]
  rxCount := by rw [h'.rxCount, h.rxCount, Nat.add_assoc]
  warn := h'.warn.trans h.warn
  events := by
    obtain ⟨es, hv, hes⟩ := h.events
    obtain ⟨es', hw, hes'⟩ := h'.events
    exact ⟨es ++ es', by rw [hw, hv, List.reverse_append, List.append_assoc], hes.append hes'⟩

theorem pollBoundOf (h : Exchanged u v n cs) (i : Index) : v.pollBoundOf i = u.pollBoundOf i := by
  rw [State.pollBoundOf, h.params, State.pollBoundOf]

/-- What is left after the bytes received. -/
theorem rx_eq {l rest : List Byte} (h : Exchanged u v l.length cs) (hx : u.rx = l ++ rest) : v.rx = rest := by
  rw [h.rx, hx, List.drop_left]

theorem powerUp (s : State) : Exchanged s (powerUp s) 10 [] := by
  have hcalls : Tally [.speedInit, .delay 100] 0 [] := ⟨rfl, fun _ _ => rfl, rfl, rfl, rfl⟩
  have htally := hcalls.append (Tally.pollEvents s 0 10)
  rw [Nat.zero_add] at htally
  rw [powerUp_eq]
  exact ⟨rfl, rfl, rfl, rfl, _, by simp, htally⟩

/-- No check but that of `CMD16` emits anything or touches the warning. -/
theorem judged {f : State → State} (h : Exchanged u v n cs) (hp : v.seq ≠ .s7Blklen) (hf : Judged v f) :
    Exchanged u (f v) n cs := by
  cases hf
  case blklenPassed hp' _ | blklenReported hp' _ _ | blklenWarned hp' _ _ => exact absurd hp' hp
  all_goals exact ⟨h.params, h.rx, h.rxCount, h.warn, h.events⟩

end Exchanged

/-- From `u` to `v` there was the transaction of `c` with `n` exchanges, and its response is `r`. -/
structure Transacted (c : Command) (r : Resp) (n : Nat) (u v : State) : Prop extends Exchanged u v n [c] where
  seq : v.seq = u.seq
  resp : v.resp = r
  attempt : v.attempt = u.attempt
  iter : v.iter = u.iter
  ocr : v.ocr = u.ocr
  cardType : v.cardType = u.cardType

/-- A transaction on a known answer. -/
theorem transact_transacted {c : Command} {r : Resp} {l rest : List Byte} {u : State}
    (ha : Answers (u.pollBoundOf c.index) r l) (hx : u.rx = l ++ rest) :
    ∃ v, transact c u = v ∧ Transacted c r l.length u v := by
  obtain ⟨hresp, -, hcount⟩ := transact_of_answers ha hx
  obtain ⟨k, r', -, ht⟩ := transact_spec c u
  rw [ht] at hcount hresp ⊢
  have hlen : 8 + k = l.length := Nat.add_left_cancel hcount
  obtain rfl : r' = r := hresp
  rw [← hlen]
  exact ⟨_, rfl, ⟨rfl, rfl, rfl, rfl, _, rfl, Tally.transaction u c k⟩, rfl, rfl, rfl, rfl, rfl, rfl⟩

/-! ### Step 2 on known answers -/

section ResetAttempt

variable {u : State} {l rest : List Byte} {k : Nat} {r : Resp} (hp : u.seq = .s2Reset)
  (hk : u.attempt = BitVec.ofNat 8 k) (hx : u.rx = l ++ rest)

include hp hk hx

/-- An attempt is a `CMD0` transaction and its check. -/
theorem resetAttempt_eq_check (ha : Answers (u.pollBoundOf 0) r l) :
    ∃ v, resetAttempt u = check v ∧ v.seq = .s2Reset ∧ v.resp = r ∧ v.attempt + 1 = BitVec.ofNat 8 (k + 1) ∧
      Exchanged u v l.length [cmd0Operands] := by
  obtain ⟨v, rfl, hv⟩ := transact_transacted (c := cmd0Operands) ha hx
  refine ⟨_, resetAttempt_eq hp, hv.seq.trans hp, hv.resp, ?_, hv.toExchanged⟩
  rw [hv.attempt, hk, BitVec.ofNat_add]
  rfl

/-- The idle code ends step 2. -/
theorem resetAttempt_passes (ha : Answers (u.pollBoundOf 0) ⟨false, 0x01⟩ l) :
    (resetAttempt u).seq = .s3Ifcond ∧ (resetAttempt u).attempt = BitVec.ofNat 8 (k + 1) ∧
      Exchanged u (resetAttempt u) l.length [cmd0Operands] := by
  obtain ⟨v, hv, hseq, hresp, hattempt, hex⟩ := resetAttempt_eq_check hp hk hx ha
  have hf := Judged.resetPassed hseq hresp
  rw [hv, hf.check_eq]
  exact ⟨rfl, hattempt, hex.judged (by rw [hseq]; decide) hf⟩

variable (ha : Answers (u.pollBoundOf 0) r l) (hr : r ≠ ⟨false, 0x01⟩)

include ha hr

/-- Before the 200th attempt step 2 goes on after any other response. -/
theorem resetAttempt_goes_on (hlt : k + 1 < 200) :
    (resetAttempt u).seq = .s2Reset ∧ (resetAttempt u).attempt = BitVec.ofNat 8 (k + 1) ∧
      Exchanged u (resetAttempt u) l.length [cmd0Operands] := by
  obtain ⟨v, hv, hseq, hresp, hattempt, hex⟩ := resetAttempt_eq_check hp hk hx ha
  have hne : BitVec.ofNat 8 (k + 1) ≠ 200 := fun h => by
    have := congrArg BitVec.toNat h
    rw [BitVec.toNat_ofNat, Nat.mod_eq_of_lt (by omega)] at this
    exact absurd this (by simp; omega)
  have hf := Judged.resetAgain hseq (hresp ▸ hr) (hattempt ▸ hne)
  have hex := hex.judged (by rw [hseq]; decide) hf
  rw [hv, hf.check_eq]
  exact ⟨hseq, hattempt, hex⟩

/-- After the 200th attempt any other response fails the run. -/
theorem resetAttempt_fails (hlast : k + 1 = 200) :
    (resetAttempt u).seq = .idle ∧ (resetAttempt u).attempt = 200 ∧ (resetAttempt u).cardState = .failed ∧
      (resetAttempt u).errKind = .resetFailed ∧ (resetAttempt u).resp = r ∧
      Exchanged u (resetAttempt u) l.length [cmd0Operands] := by
  obtain ⟨v, hv, hseq, hresp, hattempt, hex⟩ := resetAttempt_eq_check hp hk hx ha
  rw [hlast] at hattempt
  have hf := Judged.resetFailed hseq (hresp ▸ hr) hattempt
  rw [hv, hf.check_eq]
  exact ⟨rfl, hattempt, rfl, rfl, hresp, hex.judged (by rw [hseq]; decide) hf⟩

end ResetAttempt

/-- The attempts of step 2 that fail below the bound, one after the other. -/
theorem whileAt_resets (resets : List (List Byte)) {u : State} {rest : List Byte} {k : Nat} (n : Nat)
    (hp : u.seq = .s2Reset) (hk : u.attempt = BitVec.ofNat 8 k) (hlt : k + resets.length < 200)
    (ha : ∀ l ∈ resets, ∃ r, r ≠ ⟨false, 0x01⟩ ∧ Answers (u.pollBoundOf 0) r l) (hx : u.rx = resets.flatten ++ rest) :
    ∃ v, whileAt .s2Reset resetAttempt (resets.length + n) u = whileAt .s2Reset resetAttempt n v ∧ v.seq = .s2Reset ∧
      v.attempt = BitVec.ofNat 8 (k + resets.length) ∧ v.rx = rest ∧
      Exchanged u v resets.flatten.length (List.replicate resets.length cmd0Operands) := by
  induction resets generalizing u k with
  | nil =>
    refine ⟨u, by rw [List.length_nil, Nat.zero_add], hp, hk, hx, rfl, rfl, rfl, rfl, [], rfl, .nil⟩
  | cons l ls ih =>
    rw [List.length_cons] at hlt
    rw [List.flatten_cons, List.append_assoc] at hx
    obtain ⟨r, hr, hl⟩ := ha l (List.mem_cons_self ..)
    obtain ⟨hp', hk', hex⟩ := resetAttempt_goes_on hp hk hx hl hr (by omega)
    obtain ⟨v, hloop, hv, hkv, hrest, hexv⟩ := ih hp' hk' (by omega)
      (fun l hl => by rw [hex.pollBoundOf]; exact ha l (List.mem_cons_of_mem _ hl)) (hex.rx_eq hx)
    refine ⟨v, ?_, hv, ?_, hrest, ?_⟩
    · rw [← hloop, List.length_cons, Nat.add_right_comm, whileAt, if_pos hp]
    · rw [hkv, List.length_cons, Nat.add_assoc, Nat.add_comm 1]
    · rw [List.flatten_cons, List.length_append]
      exact hex.trans hexv

/-! ### Step 3 on known answers -/

section Ifcond

variable {u : State} {l rest : List Byte} (hp : u.seq = .s3Ifcond) (hx : u.rx = l ++ rest)

include hp hx

/-- The idle code leads on to step 4. -/
theorem ifcond_passes (ha : Answers (u.pollBoundOf 8) ⟨false, 0x01⟩ l) :
    (ifcond u).seq = .s4App ∧ (ifcond u).iter = 0 ∧ (ifcond u).attempt = u.attempt ∧
      Exchanged u (ifcond u) l.length [cmd8Operands] := by
  obtain ⟨v, hcmd, hv⟩ := transact_transacted (c := cmd8Operands) ha hx
  have hseq := hv.seq.trans hp
  have hf := Judged.ifcondPassed hseq hv.resp
  rw [ifcond_eq hp, hcmd, hf.check_eq]
  exact ⟨rfl, rfl, hv.attempt, hv.judged (by rw [hseq]; decide) hf⟩

/-- Any other response fails the run. -/
theorem ifcond_fails {r : Resp} (ha : Answers (u.pollBoundOf 8) r l) (hr : r ≠ ⟨false, 0x01⟩) :
    (ifcond u).seq = .idle ∧ (ifcond u).cardState = .failed ∧
      (ifcond u).result = some (.error .unsupportedCard) ∧ (ifcond u).resp = r ∧
      Exchanged u (ifcond u) l.length [cmd8Operands] := by
  obtain ⟨v, hcmd, hv⟩ := transact_transacted (c := cmd8Operands) ha hx
  have hseq := hv.seq.trans hp
  have hf := Judged.ifcondFailed hseq (hv.resp ▸ hr)
  rw [ifcond_eq hp, hcmd, hf.check_eq]
  exact ⟨rfl, rfl, rfl, hv.resp, hv.judged (by rw [hseq]; decide) hf⟩

end Ifcond

/-! ### The whole of step 2, and the end of a run that fails there -/

/-- The stages of a run from step 4 on. -/
def fromStep4 (s : State) : State :=
  let s := whileAt .s4App opcondIteration Config.opcondIterMax s
  let s := atPoint .s5Ocrcmd ocrCommand s
  let s := atPoint .s5Ocrbytes readOcr s
  let s := atPoint .s6Classify classify s
  let s := atPoint .s7Blklen blklen s
  atPoint .s8Speed finalize s

theorem initSequence_eq (s : State) : initSequence s = fromStep4 (atPoint .s3Ifcond ifcond
    (whileAt .s2Reset resetAttempt Config.resetAttemptMax (powerUp s.acceptStart))) := rfl

/-- At `IDLE` nothing is left to do. -/
theorem fromStep4_of_idle {u : State} (hp : u.seq = .idle) : fromStep4 u = u := by
  simp [fromStep4, whileAt_of_ne, atPoint_of_ne, hp]

/-- A run on a card that fails the attempts `resets`, all below the bound, comes to the next attempt. -/
theorem powerUp_resets {s : State} {clocks : List Byte} {resets : List (List Byte)} {rest : List Byte}
    (hclocks : clocks.length = 10) (hlt : resets.length < 200)
    (ha : ∀ l ∈ resets, ∃ r, r ≠ ⟨false, 0x01⟩ ∧ Answers (s.pollBoundOf 0) r l)
    (hx : s.rx = clocks ++ (resets.flatten ++ rest)) :
    ∃ v, whileAt .s2Reset resetAttempt Config.resetAttemptMax (powerUp s.acceptStart) =
        whileAt .s2Reset resetAttempt (199 - resets.length) (resetAttempt v) ∧ v.seq = .s2Reset ∧
      v.attempt = BitVec.ofNat 8 resets.length ∧ v.rx = rest ∧
      Exchanged s.acceptStart v (10 + resets.flatten.length) (List.replicate resets.length cmd0Operands) := by
  have hex := Exchanged.powerUp s.acceptStart
  obtain ⟨v, hloop, hp, hk, hrest, hexv⟩ := whileAt_resets (u := powerUp s.acceptStart) (k := 0) (rest := rest) resets
    (199 - resets.length + 1) (by rw [powerUp_eq]) (by rw [powerUp_eq]; rfl) (by omega)
    (fun l hl => by rw [hex.pollBoundOf]; exact ha l hl)
    (by rw [hex.rx, State.acceptStart_rx, hx, List.drop_left' hclocks])
  have hturns : resets.length + (199 - resets.length + 1) = Config.resetAttemptMax := by
    rw [Config.resetAttemptMax]
    omega
  rw [hturns, whileAt, if_pos hp] at hloop
  exact ⟨v, hloop, hp, by rw [hk, Nat.zero_add], hrest, hex.trans hexv⟩

/-! ### Silent cards, and cards that do not answer `CMD8` -/

theorem answers_of_silent (n : Nat) : Answers n .noResponse (List.replicate (8 + n) 0xFF) :=
  ⟨List.replicate 7 0xFF, 0xFF, List.length_replicate, .inl ⟨rfl, by
    rw [← List.replicate_succ', List.replicate_append_replicate]
    congr 1
    omega⟩⟩

/-- Settles O51: 199 attempts on fillers go on, and the 200th fails the run. -/
theorem silentCardFailsAfter200Resets : Obligations.SilentCardFailsAfter200Resets := by
  unfold Obligations.SilentCardFailsAfter200Resets
  intro s hp hsilent hlen
  set n := s.pollBoundOf 0
  have hx : s.rx = List.replicate 10 0xFF ++ ((List.replicate 199 (List.replicate (8 + n) 0xFF)).flatten ++
      (List.replicate (8 + n) 0xFF ++ List.replicate (s.rx.length - (10 + 200 * (8 + n))) 0xFF)) := by
    rw [List.flatten_replicate_replicate, List.replicate_append_replicate, List.replicate_append_replicate,
      List.replicate_append_replicate]
    refine List.eq_replicate_iff.mpr ⟨by omega, hsilent⟩
  obtain ⟨v, hloop, hv, hk, hrest, hex⟩ := powerUp_resets List.length_replicate
    (by rw [List.length_replicate]; decide)
    (fun l hl => ⟨.noResponse, nofun, by rw [List.eq_of_mem_replicate hl]; exact answers_of_silent n⟩) hx
  rw [List.length_replicate] at hloop hk hex
  have hbound : v.pollBoundOf 0 = n := hex.pollBoundOf 0
  have hlast : Answers (v.pollBoundOf 0) .noResponse (List.replicate (8 + n) 0xFF) := hbound ▸ answers_of_silent n
  obtain ⟨hidle, hattempt, hstate, herr, hresp, hexf⟩ := resetAttempt_fails hv hk hrest hlast nofun rfl
  have hend : initSequence s = resetAttempt v := by
    rw [initSequence_eq, hloop, whileAt_of_ne (by rw [hidle]; decide), atPoint_of_ne (by rw [hidle]; decide),
      fromStep4_of_idle hidle]
  obtain ⟨es, hevents, htally⟩ := (hex.trans hexf).events
  have hcount : 10 + (List.replicate 199 (List.replicate (8 + n) (0xFF : Byte))).flatten.length +
      (List.replicate (8 + n) (0xFF : Byte)).length = 10 + 200 * (8 + n) := by
    rw [List.flatten_replicate_replicate, List.length_replicate, List.length_replicate]
    omega
  rw [hcount, ← List.replicate_succ'] at htally
  have htally := htally.reverse
  have hsent (b : Byte) (hb : b ≠ 0xFF#8) : es.reverse.countP (Event.sent b) = 200 * cmd0Operands.frame.toList.count b := by
    rw [htally.sent b hb, List.map_replicate, List.sum_replicate, smul_eq_mul]
  have hother : ∀ b ∈ [0x48#8, 0x77#8, 0x69#8, 0x7A#8, 0x50#8],
      b ≠ 0xFF#8 ∧ cmd0Operands.frame.toList.count b = 0 := by decide
  rw [← hend] at hattempt hstate herr hresp hevents
  refine ⟨_, es.reverse, exec_initializeCard_idle hp, hstate, herr, hattempt, hresp, hevents, htally.xchgs,
    hsent _ (by decide), hsent _ (by decide), fun b hb => ?_, ?_, ?_, htally.speeds⟩
  · obtain ⟨hne, hnot⟩ := hother b hb
    rw [hsent b hne, hnot]
  · rw [htally.selects, List.length_replicate]
  · rw [htally.deselects, List.length_replicate]

/-- A run on a card that fails the attempts `resets` and answers the next with the idle code comes to step 3. -/
theorem powerUp_reset {s : State} {clocks reset : List Byte} {resets : List (List Byte)} {rest : List Byte}
    (hclocks : clocks.length = 10) (hlt : resets.length < 200)
    (ha : ∀ l ∈ resets, ∃ r, r ≠ ⟨false, 0x01⟩ ∧ Answers (s.pollBoundOf 0) r l)
    (hreset : Answers (s.pollBoundOf 0) ⟨false, 0x01⟩ reset)
    (hx : s.rx = clocks ++ (resets.flatten ++ (reset ++ rest))) :
    ∃ v, initSequence s = fromStep4 (ifcond v) ∧ v.seq = .s3Ifcond ∧
      v.attempt = BitVec.ofNat 8 (resets.length + 1) ∧ v.rx = rest ∧
      Exchanged s.acceptStart v (10 + resets.flatten.length + reset.length)
        (List.replicate (resets.length + 1) cmd0Operands) := by
  obtain ⟨u, hloop, hp, hk, hu, hex⟩ := powerUp_resets hclocks hlt ha hx
  have hreset : Answers (u.pollBoundOf 0) ⟨false, 0x01⟩ reset := by
    rw [hex.pollBoundOf]
    exact hreset
  obtain ⟨hseq, hattempt, hexr⟩ := resetAttempt_passes hp hk hu hreset
  refine ⟨_, ?_, hseq, hattempt, hexr.rx_eq hu, List.replicate_succ' ▸ hex.trans hexr⟩
  rw [initSequence_eq, hloop, whileAt_of_ne (by rw [hseq]; decide), atPoint_of_eq hseq]

/-- Settles O54: after step 2 the `CMD8` transaction fails the run; the frames sent are those of the `CMD0` attempts and
of `CMD8`. -/
theorem unsupportedCardEndsTheRun : Obligations.UnsupportedCardEndsTheRun := by
  unfold Obligations.UnsupportedCardEndsTheRun
  intro s clocks reset ifcond rest resets r hp hclocks hlt ha hreset hifcond hr hx
  obtain ⟨v, hrun, hv, -, hrest, hex⟩ := powerUp_reset hclocks hlt ha hreset hx
  have hifcond : Answers (v.pollBoundOf 8) r ifcond := by
    rw [hex.pollBoundOf]
    exact hifcond
  obtain ⟨hidle, hstate, hresult, hresp, hexf⟩ := ifcond_fails hv hrest hifcond hr
  have hend : initSequence s = Machine.ifcond v := hrun.trans (fromStep4_of_idle hidle)
  have hleft := hexf.rx_eq hrest
  obtain ⟨es, hevents, htally⟩ := (hex.trans hexf).events
  have htally := htally.reverse
  have hsent (b : Byte) (hb : b ≠ 0xFF#8) : es.reverse.countP (Event.sent b) =
      (resets.length + 1) * cmd0Operands.frame.toList.count b + cmd8Operands.frame.toList.count b := by
    rw [htally.sent b hb, List.map_append, List.sum_append, List.map_replicate, List.sum_replicate, smul_eq_mul,
      List.map_singleton, List.sum_singleton]
  have hother : ∀ b ∈ [0x77#8, 0x69#8, 0x7A#8, 0x50#8], b ≠ 0xFF#8 ∧
      cmd0Operands.frame.toList.count b = 0 ∧ cmd8Operands.frame.toList.count b = 0 := by decide
  rw [← hend] at hstate hresult hresp hleft hevents
  refine ⟨_, es.reverse, exec_initializeCard_idle hp, hresult, hstate, hresp, hleft, hevents, ?_, ?_, ?_, fun b hb => ?_⟩
  · rw [htally.selects, List.length_append, List.length_replicate, List.length_singleton]
  · rw [hsent _ (by decide)]
    exact Nat.mul_one _
  · rw [hsent _ (by decide)]
    exact congrArg (· + 1) (Nat.mul_zero _)
  · obtain ⟨hne, h0, h8⟩ := hother b hb
    rw [hsent b hne, h0, h8, Nat.mul_zero]

end Sys2Proof.Machine
end

section
/-!
A run on a card that answers each command as its step asks (43_init_sequence.md R170 to R186): steps 4 to 8 on known answers.
-/

namespace Sys2Proof.Machine

/-! ### Step 4 -/

section OpcondIteration

variable {u : State} {l₁ l₂ rest : List Byte} {k : Nat} {r₁ r : Resp} (hp : u.seq = .s4App)
  (hk : u.iter = BitVec.ofNat 16 k) (hx : u.rx = l₁ ++ (l₂ ++ rest)) (h₁ : Answers (u.pollBoundOf 55) r₁ l₁)

include hp hk hx h₁

/-- An iteration is the two transactions, of `CMD55` with any response and of `CMD41`, and the check of the second. -/
theorem opcondIteration_eq_check (h₂ : Answers (u.pollBoundOf 41) r l₂) :
    ∃ v, opcondIteration u = check v ∧ v.seq = .s4Opcond ∧ v.resp = r ∧ v.iter + 1 = BitVec.ofNat 16 (k + 1) ∧
      v.attempt = u.attempt ∧ ∃ cs, Exchanged u v (l₁.length + l₂.length) cs := by
  obtain ⟨a, hcmd₁, ha⟩ := transact_transacted (c := cmd55Operands u.params.crcFiller) h₁ hx
  have haseq := ha.seq.trans hp
  have hf := Judged.app haseq
  have hexa := ha.judged (by rw [haseq]; decide) hf
  have hbound : Answers ((a.goto .s4Opcond).pollBoundOf 41) r l₂ := by
    rw [hexa.pollBoundOf]
    exact h₂
  obtain ⟨v, hcmd₂, hv⟩ :=
    transact_transacted (c := cmd41Operands u.params.crcFiller) hbound (hexa.rx_eq hx)
  refine ⟨v, ?_, hv.seq, hv.resp, ?_, hv.attempt.trans ha.attempt, _, hexa.trans hv.toExchanged⟩
  · rw [opcondIteration_eq hp, hcmd₁, hf.check_eq, hcmd₂]
  · rw [hv.iter, State.goto_iter, ha.iter, hk, BitVec.ofNat_add]
    rfl

/-- Zero ends step 4. -/
theorem opcondIteration_passes (h₂ : Answers (u.pollBoundOf 41) ⟨false, 0x00⟩ l₂) :
    (opcondIteration u).seq = .s5Ocrcmd ∧ (opcondIteration u).iter = BitVec.ofNat 16 (k + 1) ∧
      (opcondIteration u).attempt = u.attempt ∧
      ∃ cs, Exchanged u (opcondIteration u) (l₁.length + l₂.length) cs := by
  obtain ⟨v, hv, hseq, hresp, hiter, hattempt, cs, hex⟩ := opcondIteration_eq_check hp hk hx h₁ h₂
  have hf := Judged.opcondPassed hseq hresp
  rw [hv, hf.check_eq]
  exact ⟨rfl, hiter, hattempt, cs, hex.judged (by rw [hseq]; decide) hf⟩

/-- Before iteration 65535 step 4 goes on after any other response. -/
theorem opcondIteration_goes_on (h₂ : Answers (u.pollBoundOf 41) r l₂) (hr : r ≠ ⟨false, 0x00⟩) (hlt : k + 1 < 65535) :
    (opcondIteration u).seq = .s4App ∧ (opcondIteration u).iter = BitVec.ofNat 16 (k + 1) ∧
      (opcondIteration u).attempt = u.attempt ∧
      ∃ cs, Exchanged u (opcondIteration u) (l₁.length + l₂.length) cs := by
  obtain ⟨v, hv, hseq, hresp, hiter, hattempt, cs, hex⟩ := opcondIteration_eq_check hp hk hx h₁ h₂
  have hne : BitVec.ofNat 16 (k + 1) ≠ 65535 := fun h => by
    have := congrArg BitVec.toNat h
    rw [BitVec.toNat_ofNat, Nat.mod_eq_of_lt (by omega)] at this
    exact absurd this (by simp; omega)
  have hf := Judged.opcondAgain hseq (hresp ▸ hr) (hiter ▸ hne)
  have hex := hex.judged (by rw [hseq]; decide) hf
  rw [hv, hf.check_eq]
  exact ⟨rfl, hiter, hattempt, cs, hex⟩

end OpcondIteration

/-- The iterations of step 4 that fail below the bound, one after the other. -/
theorem whileAt_pairs (pairs : List (List Byte × List Byte)) {u : State} {rest : List Byte} {k : Nat} (n : Nat)
    (hp : u.seq = .s4App) (hk : u.iter = BitVec.ofNat 16 k) (hlt : k + pairs.length < 65535)
    (ha : ∀ p ∈ pairs, (∃ r, Answers (u.pollBoundOf 55) r p.1) ∧
      ∃ r, r ≠ ⟨false, 0x00⟩ ∧ Answers (u.pollBoundOf 41) r p.2)
    (hx : u.rx = (pairs.map fun p => p.1 ++ p.2).flatten ++ rest) :
    ∃ v, whileAt .s4App opcondIteration (pairs.length + n) u = whileAt .s4App opcondIteration n v ∧ v.seq = .s4App ∧
      v.iter = BitVec.ofNat 16 (k + pairs.length) ∧ v.attempt = u.attempt ∧ v.rx = rest ∧
      ∃ cs, Exchanged u v (pairs.map fun p => p.1 ++ p.2).flatten.length cs := by
  induction pairs generalizing u k with
  | nil =>
    exact ⟨u, by rw [List.length_nil, Nat.zero_add], hp, hk, rfl, hx, [], rfl, rfl, rfl, rfl, [], rfl, .nil⟩
  | cons p ps ih =>
    rw [List.length_cons] at hlt
    rw [List.map_cons, List.flatten_cons, List.append_assoc, List.append_assoc] at hx
    obtain ⟨⟨r₁, h₁⟩, r, hr, h₂⟩ := ha p (List.mem_cons_self ..)
    obtain ⟨hp', hk', ha', cs, hex⟩ := opcondIteration_goes_on hp hk hx h₁ h₂ hr (by omega)
    rw [← List.append_assoc] at hx
    rw [← List.length_append] at hex
    obtain ⟨v, hloop, hv, hkv, hav, hrest, cs', hexv⟩ := ih hp' hk' (by omega)
      (fun p hp => by rw [hex.pollBoundOf, hex.pollBoundOf]; exact ha p (List.mem_cons_of_mem _ hp)) (hex.rx_eq hx)
    refine ⟨v, ?_, hv, ?_, hav.trans ha', hrest, cs ++ cs', ?_⟩
    · rw [← hloop, List.length_cons, Nat.add_right_comm, whileAt, if_pos hp]
    · rw [hkv, List.length_cons, Nat.add_assoc, Nat.add_comm 1]
    · rw [List.map_cons, List.flatten_cons, List.length_append]
      exact hex.trans hexv

/-! ### Steps 5 to 8 -/

section Rest

variable {u : State} {l rest : List Byte}

/-- Zero leads on to the OCR read. -/
theorem ocrCommand_passes (hp : u.seq = .s5Ocrcmd) (hx : u.rx = l ++ rest)
    (ha : Answers (u.pollBoundOf 58) ⟨false, 0x00⟩ l) :
    (ocrCommand u).seq = .s5Ocrbytes ∧ (ocrCommand u).attempt = u.attempt ∧ (ocrCommand u).iter = u.iter ∧
      ∃ cs, Exchanged u (ocrCommand u) l.length cs := by
  obtain ⟨v, hcmd, hv⟩ := transact_transacted (c := cmd58Operands u.params.crcFiller) ha hx
  have hseq := hv.seq.trans hp
  have hf := Judged.ocrcmdPassed hseq hv.resp
  rw [ocrCommand_eq hp, hcmd, hf.check_eq]
  exact ⟨rfl, hv.attempt, hv.iter, _, hv.judged (by rw [hseq]; decide) hf⟩

/-- The OCR read and the classification, on the bytes of the word `w`. -/
theorem classify_readOcr {w : BitVec 32} (hx : u.rx = ocrBytes w ++ rest) :
    ∃ v, classify (readOcr u) = v ∧ v.seq = .s7Blklen ∧ v.ocr = w ∧ v.cardType = cardTypeOf w ∧
      v.attempt = u.attempt ∧ v.iter = u.iter ∧ v.params = u.params ∧ v.rx = rest ∧ v.rxCount = u.rxCount + 4 ∧
      v.warnBlklen = u.warnBlklen := by
  rw [readOcr, ocrExchanges_of_ocrBytes hx]
  exact ⟨_, rfl, rfl, rfl, rfl, rfl, rfl, rfl, rfl, rfl, rfl⟩

/-- The check of `CMD16` warns exactly if the response is not zero, and touches nothing of the result. -/
theorem checkBlklen_kept (hw : u.warnBlklen = false) :
    (checkBlklen u).seq = .s8Speed ∧ (checkBlklen u).cardType = u.cardType ∧ (checkBlklen u).ocr = u.ocr ∧
      (checkBlklen u).attempt = u.attempt ∧ (checkBlklen u).iter = u.iter ∧ (checkBlklen u).rx = u.rx ∧
      (checkBlklen u).rxCount = u.rxCount ∧ ((checkBlklen u).warnBlklen = true ↔ u.resp ≠ ⟨false, 0x00⟩) := by
  by_cases hr : u.resp = ⟨false, 0x00⟩
  · rw [checkBlklen_of_ready hr]
    simp [hr, hw]
  · rw [checkBlklen_of_ne hr]
    simpa using hr

/-- Step 7 on the answer `r`: the run goes on, with a warning if `r` is not zero. -/
theorem blklen_answered {r : Resp} (hw : u.warnBlklen = false) (hx : u.rx = l ++ rest)
    (ha : Answers (u.pollBoundOf 16) r l) :
    (blklen u).seq = .s8Speed ∧ (blklen u).cardType = u.cardType ∧ (blklen u).ocr = u.ocr ∧
      (blklen u).attempt = u.attempt ∧ (blklen u).iter = u.iter ∧ (blklen u).rx = rest ∧
      (blklen u).rxCount = u.rxCount + l.length ∧ ((blklen u).warnBlklen = true ↔ r ≠ ⟨false, 0x00⟩) := by
  obtain ⟨v, hcmd, hv⟩ := transact_transacted (c := cmd16Operands u.params.crcFiller) ha hx
  obtain ⟨hseq, htype, hocr, hattempt, hiter, hrx, hcount, hwarn⟩ := checkBlklen_kept (hv.warn.trans hw)
  rw [hv.resp] at hwarn
  rw [blklen, hcmd]
  exact ⟨hseq, htype.trans hv.cardType, hocr.trans hv.ocr, hattempt.trans hv.attempt, hiter.trans hv.iter,
    hrx.trans (hv.rx_eq hx), hcount.trans hv.rxCount, hwarn⟩

end Rest

theorem readOcr_seq (s : State) : (readOcr s).seq = .s6Classify := rfl

/-- The last step gives the result. -/
theorem finalize_result (s : State) : (finalize s).result = some (.ok s.cardType) := rfl

/-- The poll bounds are all that a script takes from the state. -/
theorem RunScript.Succeeds.congr {s u : State} {c : RunScript} {final : Resp} (hc : c.Succeeds s final)
    (hbound : ∀ i, u.pollBoundOf i = s.pollBoundOf i) : c.Succeeds u final := by
  obtain ⟨hclocks, hlt, hresets, hreset, hifcond, hplt, hpairs, happ, hopcond, hocr, hblklen⟩ := hc
  simp only [← hbound] at hresets hreset hifcond hpairs happ hopcond hocr hblklen
  exact ⟨hclocks, hlt, hresets, hreset, hifcond, hplt, hpairs, happ, hopcond, hocr, hblklen⟩

/-- A run that comes to `S8_SPEED` through steps 4 to 7. -/
theorem fromStep4_answered {u : State} {c : RunScript} {final : Resp} {rest : List Byte} (hp : u.seq = .s4App)
    (hiter : u.iter = 0) (hw : u.warnBlklen = false) (hc : c.Succeeds u final)
    (hx : u.rx = (c.pairs.map fun p => p.1 ++ p.2).flatten ++ (c.app ++ (c.opcond ++ (c.ocrCommand ++
      (ocrBytes c.ocr ++ (c.blklen ++ rest)))))) :
    ∃ v, fromStep4 u = finalize v ∧ v.cardType = cardTypeOf c.ocr ∧ v.ocr = c.ocr ∧ v.attempt = u.attempt ∧
      v.iter = BitVec.ofNat 16 (c.pairs.length + 1) ∧ v.rx = rest ∧
      v.rxCount = u.rxCount + ((c.pairs.map fun p => p.1 ++ p.2).flatten.length + (c.app.length + c.opcond.length) +
        c.ocrCommand.length + 4 + c.blklen.length) ∧
      (v.warnBlklen = true ↔ final ≠ ⟨false, 0x00⟩) := by
  have hplt := hc.pairs_lt
  obtain ⟨u₁, hloop, hp₁, hiter₁, hattempt₁, hx₁, cs₁, hex₁⟩ := whileAt_pairs c.pairs (65534 - c.pairs.length + 1)
    (k := 0) hp hiter (by omega) hc.pairs hx
  have hc₁ := hc.congr hex₁.pollBoundOf
  obtain ⟨r, happ⟩ := hc₁.app
  obtain ⟨hp₂, hiter₂, hattempt₂, cs₂, hex₂⟩ := opcondIteration_passes hp₁ hiter₁ hx₁ happ hc₁.opcond
  rw [← List.append_assoc] at hx₁
  rw [← List.length_append] at hex₂
  have hx₂ := hex₂.rx_eq hx₁
  obtain ⟨hp₃, hattempt₃, hiter₃, cs₃, hex₃⟩ :=
    ocrCommand_passes hp₂ hx₂ (hc₁.congr hex₂.pollBoundOf).ocrCommand
  have hex := (hex₁.trans hex₂).trans hex₃
  obtain ⟨v, hv, hp₄, hocr₄, htype₄, hattempt₄, hiter₄, hparams₄, hx₄, hcount₄, hw₄⟩ :=
    classify_readOcr (hex₃.rx_eq hx₂)
  have hbound (i : Index) : v.pollBoundOf i = u.pollBoundOf i := by
    rw [← hex.pollBoundOf, State.pollBoundOf, hparams₄, State.pollBoundOf]
  obtain ⟨hp₅, htype₅, hocr₅, hattempt₅, hiter₅, hx₅, hcount₅, hw₅⟩ :=
    blklen_answered (hw₄.trans (hex.warn.trans hw)) hx₄ (hc.congr hbound).blklen
  have hturns : Config.opcondIterMax = c.pairs.length + (65534 - c.pairs.length + 1) := by
    rw [Config.opcondIterMax]
    omega
  have hrun : fromStep4 u = finalize (blklen v) := by
    rw [fromStep4, hturns, hloop, whileAt, if_pos hp₁, whileAt_of_ne (by rw [hp₂]; decide), atPoint_of_eq hp₂,
      atPoint_of_eq hp₃, atPoint_of_eq (readOcr_seq _), hv, atPoint_of_eq hp₄, atPoint_of_eq hp₅]
  refine ⟨_, hrun, htype₅.trans htype₄, hocr₅.trans hocr₄, ?_, ?_, hx₅, ?_, hw₅⟩
  · rw [hattempt₅, hattempt₄, hattempt₃, hattempt₂, hattempt₁]
  · rw [hiter₅, hiter₄, hiter₃, hiter₂, Nat.zero_add]
  · rw [hcount₅, hcount₄, hex.rxCount, List.length_append]
    omega

/-- Settles O53: steps 1 to 3 by `powerUp_reset` and `ifcond_passes`, the rest by `fromStep4_answered`; what else holds at
the end is the invariant's. -/
theorem answeredCardIsInitialized : Obligations.AnsweredCardIsInitialized := by
  unfold Obligations.AnsweredCardIsInitialized
  intro s c final rest hp hc hx
  rw [RunScript.bytes] at hx ⊢
  simp only [List.append_assoc] at hx
  obtain ⟨u, hrun, hu, hattempt, hrest, hex⟩ := powerUp_reset hc.clocks hc.resets_lt hc.resets hc.reset hx
  have hifcond := (hc.congr hex.pollBoundOf).ifcond
  obtain ⟨hp₄, hiter₄, hattempt₄, hex₄⟩ := ifcond_passes hu hrest hifcond
  have hex' := hex.trans hex₄
  obtain ⟨v, hv, htype, hocr, hattemptv, hiter, hleft, hcount, hwarn⟩ :=
    fromStep4_answered hp₄ hiter₄ hex'.warn (hc.congr hex'.pollBoundOf) (hex₄.rx_eq hrest)
  have hend : initSequence s = finalize v := hrun.trans hv
  obtain ⟨hinv, hidle⟩ := initSequence_ends s
  have hready : (initSequence s).cardState = .ready := by rw [hend]; rfl
  obtain ⟨hspeed, hsel, hvalid⟩ := hinv.ready_final hready
  have hbusy : (initSequence s).busy = false := by rw [hend]; rfl
  refine ⟨_, exec_initializeCard_idle hp, ?_, hready, hvalid, hspeed, hsel, hidle, hbusy, ?_⟩
  · rw [hend, finalize_result, htype]
    rfl
  · rw [hend]
    refine ⟨hocr, hattemptv.trans (hattempt₄.trans hattempt), hiter, hwarn, hleft, hcount.trans ?_⟩
    have hword : (ocrBytes c.ocr).length = 4 := rfl
    rw [hex'.rxCount, State.acceptStart_rxCount]
    simp only [List.length_append, hc.clocks, hword]
    omega

end Sys2Proof.Machine
end
